-- ==== Sys2Proof/Word.lean ====
section
/-! DEFINITION. The two word types of the CPU08: the 8-bit byte of one address (R50) and the 16-bit
address or register pair (R8). Everything computed on them stands in Machine/Bits.lean. -/

namespace Sys2Proof

/-- One addressable byte (R8, R50). -/
abbrev Byte := BitVec 8

/-- A 16-bit address, H:X, SP or PC (R8). -/
abbrev Word := BitVec 16

end Sys2Proof
end

