-- ==== Sys2Proof/Machine/Bits.lean ====
section
/-! DEFINITION. Byte order, extension and bit helpers (R10, R57, R210). -/

namespace Sys2Proof.Machine

/-- The more significant byte of a word: bits 15:8 (R10, R11). -/
def hiByte (w : Word) : Byte := w.extractLsb' 8 8

/-- The less significant byte of a word: bits 7:0 (R10, R11). -/
def loByte (w : Word) : Byte := w.extractLsb' 0 8

/-- Concatenation `h : l`, the more significant byte first (R10, R57). -/
def join (h l : Byte) : Word := h ++ l

/-- `zext_16` (R10): an unsigned 8-bit address or offset as a word. -/
def zext16 (b : Byte) : Word := b.setWidth 16

/-- `sext_16` (R10): a two's-complement byte as a word. -/
def sext16 (b : Byte) : Word := b.signExtend 16

/-- The mask of bit n: weight 2^n (R210). -/
def bitMask (n : BitVec 3) : Byte := 1#8 <<< n.toNat

/-- `v[n]` (R10). -/
def bitOf (v : Byte) (n : BitVec 3) : Bool := v.getLsbD n.toNat

end Sys2Proof.Machine
end

