-- ==== Sys2Proof/Syntax.lean ====
section
/-! DEFINITION. The instructions of the CPU08: one constructor per instruction of the opcode table
(R90, R91), its addressing form an operand. A row of spec/opcode_table.json is one constructor with one
operand form; the BSET, BCLR, BRSET, BRCLR rows carry the bit number as a field, as the table does. -/

namespace Sys2Proof

/-- A memory operand: the addressing forms that name one effective address without changing a register
(R115, R116, R119 to R123). Which of them an instruction has is Instr.wellFormed. -/
inductive MemOperand where
  /-- DIR: the direct-page address $00dd. -/
  | dir (dd : Byte)
  /-- EXT: the address hhll. -/
  | ext (hhll : Word)
  /-- IX: H:X. -/
  | ix
  /-- IX1: H:X plus the unsigned offset ff. -/
  | ix1 (ff : Byte)
  /-- IX2: H:X plus the offset eeff. -/
  | ix2 (eeff : Word)
  /-- SP1: SP plus the unsigned offset ff (pre-byte $9E). -/
  | sp1 (ff : Byte)
  /-- SP2: SP plus the offset eeff (pre-byte $9E). -/
  | sp2 (eeff : Word)
deriving DecidableEq, Repr

/-- The 8-bit source operand of a load, arithmetic, logic or compare instruction (R112, R134). -/
inductive Src where
  /-- IMM: the byte itself. -/
  | imm (ii : Byte)
  /-- The byte at a memory operand. -/
  | mem (m : MemOperand)
deriving DecidableEq, Repr

/-- The 16-bit source operand of LDHX and CPHX (R113, R117). -/
inductive Src16 where
  /-- IMM16: the word itself. -/
  | imm (iijj : Word)
  /-- DIR: the two bytes at $00dd and $00dd + 1. -/
  | dir (dd : Byte)
deriving DecidableEq, Repr

/-- The memory operand of CBEQ (R265). -/
inductive CmpOperand where
  /-- DIR_REL. -/
  | dir (dd : Byte)
  /-- SP1_REL. -/
  | sp1 (ff : Byte)
  /-- IX+_REL: H:X, then H:X is incremented. -/
  | ixInc
  /-- IX1+_REL: H:X plus the unsigned offset, then H:X is incremented. -/
  | ix1Inc (ff : Byte)
deriving DecidableEq, Repr

/-- The four forms of MOV (R129 to R133). -/
inductive Move where
  /-- DD: direct to direct. -/
  | dirDir (src dst : Byte)
  /-- DIX+: direct to H:X, then H:X is incremented. -/
  | dirIxInc (src : Byte)
  /-- IMD: immediate to direct. -/
  | immDir (ii dst : Byte)
  /-- IX+D: H:X to direct, then H:X is incremented. -/
  | ixIncDir (dst : Byte)
deriving DecidableEq, Repr

/-- The instructions. `rr` is the signed relative offset byte (R86), `n` the bit number (R87). -/
inductive Instr where
  -- bit test and branch, bit set and clear (columns $0 and $1)
  | brset (n : BitVec 3) (dd rr : Byte)
  | brclr (n : BitVec 3) (dd rr : Byte)
  | bset (n : BitVec 3) (dd : Byte)
  | bclr (n : BitVec 3) (dd : Byte)
  -- relative branches (columns $2 and $9)
  | bra (rr : Byte)
  | brn (rr : Byte)
  | bhi (rr : Byte)
  | bls (rr : Byte)
  | bcc (rr : Byte)
  | bcs (rr : Byte)
  | bne (rr : Byte)
  | beq (rr : Byte)
  | bhcc (rr : Byte)
  | bhcs (rr : Byte)
  | bpl (rr : Byte)
  | bmi (rr : Byte)
  | bmc (rr : Byte)
  | bms (rr : Byte)
  | bil (rr : Byte)
  | bih (rr : Byte)
  | bge (rr : Byte)
  | blt (rr : Byte)
  | bgt (rr : Byte)
  | ble (rr : Byte)
  -- read-modify-write (columns $3 to $7)
  | neg (m : MemOperand)
  | nega
  | negx
  | com (m : MemOperand)
  | coma
  | comx
  | lsr (m : MemOperand)
  | lsra
  | lsrx
  | ror (m : MemOperand)
  | rora
  | rorx
  | asr (m : MemOperand)
  | asra
  | asrx
  | lsl (m : MemOperand)
  | lsla
  | lslx
  | rol (m : MemOperand)
  | rola
  | rolx
  | dec (m : MemOperand)
  | deca
  | decx
  | inc (m : MemOperand)
  | inca
  | incx
  | tst (m : MemOperand)
  | tsta
  | tstx
  | clr (m : MemOperand)
  | clra
  | clrx
  -- compare or decrement and branch
  | cbeq (m : CmpOperand) (rr : Byte)
  | cbeqa (ii rr : Byte)
  | cbeqx (ii rr : Byte)
  | dbnz (m : MemOperand) (rr : Byte)
  | dbnza (rr : Byte)
  | dbnzx (rr : Byte)
  -- the other cells of columns $3 to $7
  | mul
  | div
  | nsa
  | daa
  | sthx (dd : Byte)
  | ldhx (src : Src16)
  | cphx (src : Src16)
  | mov (m : Move)
  -- control and register instructions (columns $8 and $9)
  | rti
  | rts
  | swi
  | tap
  | tpa
  | pula
  | psha
  | pulx
  | pshx
  | pulh
  | pshh
  | clrh
  | stop
  | wait
  | txs
  | tsx
  | tax
  | clc
  | sec
  | cli
  | sei
  | rsp
  | nop
  | txa
  -- register and memory (columns $A to $F)
  | sub (src : Src)
  | cmp (src : Src)
  | sbc (src : Src)
  | cpx (src : Src)
  | and (src : Src)
  | bit (src : Src)
  | lda (src : Src)
  | eor (src : Src)
  | adc (src : Src)
  | ora (src : Src)
  | add (src : Src)
  | ldx (src : Src)
  | sta (m : MemOperand)
  | jmp (m : MemOperand)
  | jsr (m : MemOperand)
  | stx (m : MemOperand)
  | ais (ii : Byte)
  | bsr (rr : Byte)
  | aix (ii : Byte)
deriving DecidableEq, Repr

end Sys2Proof
end

