-- ==== Sys2Proof/WellFormed.lean ====
section
/-! DEFINITION. Which addressing forms each instruction has: the rows of the opcode table (R90, R91).
An ill-formed instruction has no encoding and no bytes decode to one. -/

namespace Sys2Proof

/-- The forms of the read-modify-write rows, TST, CLR and DBNZ: DIR, IX1, IX, SP1 (R179, R266). -/
def MemOperand.isRmw : MemOperand → Bool
  | .dir _ | .ix1 _ | .ix | .sp1 _ => true
  | .ext _ | .ix2 _ | .sp2 _ => false

/-- The forms of JMP and JSR: DIR, EXT, IX2, IX1, IX; there is no SP-relative form (R267, R268). -/
def MemOperand.isJump : MemOperand → Bool
  | .dir _ | .ext _ | .ix | .ix1 _ | .ix2 _ => true
  | .sp1 _ | .sp2 _ => false

/-- The instruction is one of the rows of the opcode table. -/
def Instr.wellFormed : Instr → Bool
  | .neg m | .com m | .lsr m | .ror m | .asr m | .lsl m | .rol m | .dec m | .inc m | .tst m | .clr m
  | .dbnz m _ => m.isRmw
  | .jmp m | .jsr m => m.isJump
  | .brset _ _ _ | .brclr _ _ _ | .bset _ _ | .bclr _ _
  | .bra _ | .brn _ | .bhi _ | .bls _ | .bcc _ | .bcs _ | .bne _ | .beq _ | .bhcc _ | .bhcs _
  | .bpl _ | .bmi _ | .bmc _ | .bms _ | .bil _ | .bih _ | .bge _ | .blt _ | .bgt _ | .ble _
  | .nega | .negx | .coma | .comx | .lsra | .lsrx | .rora | .rorx | .asra | .asrx | .lsla | .lslx
  | .rola | .rolx | .deca | .decx | .inca | .incx | .tsta | .tstx | .clra | .clrx
  | .cbeq _ _ | .cbeqa _ _ | .cbeqx _ _ | .dbnza _ | .dbnzx _
  | .mul | .div | .nsa | .daa | .sthx _ | .ldhx _ | .cphx _ | .mov _
  | .rti | .rts | .swi | .tap | .tpa | .pula | .psha | .pulx | .pshx | .pulh | .pshh | .clrh
  | .stop | .wait | .txs | .tsx | .tax | .clc | .sec | .cli | .sei | .rsp | .nop | .txa
  | .sub _ | .cmp _ | .sbc _ | .cpx _ | .and _ | .bit _ | .lda _ | .eor _ | .adc _ | .ora _ | .add _
  | .ldx _ | .sta _ | .stx _ | .ais _ | .bsr _ | .aix _ => true

end Sys2Proof
end

