-- ==== Sys2Proof/Decode.lean ====
section
/-! DEFINITION. Instruction bytes to instructions and back (R80 to R93). The opcode map is written as
the spec prints it: a page is a list of columns, a column a list of sixteen cells (R89 to R91). -/

namespace Sys2Proof

open Sys2Proof.Machine (join hiByte loByte)

/-- One cell of the opcode map: which instruction, and how many operand bytes follow (R83). -/
inductive OpcodeCell where
  /-- No instruction: an illegal opcode (R93). -/
  | illegal
  /-- No operand byte: INH, IX. -/
  | op0 (i : Instr)
  /-- One operand byte. -/
  | op1 (f : Byte → Instr)
  /-- Two operand bytes, in the order they are fetched (R84). -/
  | op2 (f : Byte → Byte → Instr)

/-- Why a byte sequence is no instruction. -/
inductive DecodeError where
  /-- The first byte selects no cell of the main page (R93). -/
  | illegalOpcode (op : Byte)
  /-- The byte after $9E selects no cell of the pre-byte page (R93). -/
  | illegalAfterPrebyte (op : Byte)
  /-- The bytes end inside the instruction. -/
  | truncated
deriving DecidableEq, Repr

/-- Column $0: BRSET and BRCLR, bit number in opcode bits 3:1 (R87). -/
def bitBranchColumn : List OpcodeCell :=
  [.op2 (.brset 0), .op2 (.brclr 0), .op2 (.brset 1), .op2 (.brclr 1),
   .op2 (.brset 2), .op2 (.brclr 2), .op2 (.brset 3), .op2 (.brclr 3),
   .op2 (.brset 4), .op2 (.brclr 4), .op2 (.brset 5), .op2 (.brclr 5),
   .op2 (.brset 6), .op2 (.brclr 6), .op2 (.brset 7), .op2 (.brclr 7)]

/-- Column $1: BSET and BCLR (R87). -/
def bitChangeColumn : List OpcodeCell :=
  [.op1 (.bset 0), .op1 (.bclr 0), .op1 (.bset 1), .op1 (.bclr 1),
   .op1 (.bset 2), .op1 (.bclr 2), .op1 (.bset 3), .op1 (.bclr 3),
   .op1 (.bset 4), .op1 (.bclr 4), .op1 (.bset 5), .op1 (.bclr 5),
   .op1 (.bset 6), .op1 (.bclr 6), .op1 (.bset 7), .op1 (.bclr 7)]

/-- Column $2: relative branches. -/
def branchColumn : List OpcodeCell :=
  [.op1 .bra, .op1 .brn, .op1 .bhi, .op1 .bls, .op1 .bcc, .op1 .bcs, .op1 .bne, .op1 .beq,
   .op1 .bhcc, .op1 .bhcs, .op1 .bpl, .op1 .bmi, .op1 .bmc, .op1 .bms, .op1 .bil, .op1 .bih]

/-- A memory column of the read-modify-write rows; rows $1, $2, $5, $B, $E are the column's own. -/
def rmwColumn (cell : (MemOperand → Instr) → OpcodeCell) (row1 row2 row5 rowB rowE : OpcodeCell) :
    List OpcodeCell :=
  [cell .neg, row1, row2, cell .com, cell .lsr, row5, cell .ror, cell .asr,
   cell .lsl, cell .rol, cell .dec, rowB, cell .inc, cell .tst, rowE, cell .clr]

/-- Column $4: the same rows on A. -/
def accumulatorColumn : List OpcodeCell :=
  [.op0 .nega, .op2 .cbeqa, .op0 .mul, .op0 .coma, .op0 .lsra,
   .op2 (fun ii jj => .ldhx (.imm (join ii jj))), .op0 .rora, .op0 .asra,
   .op0 .lsla, .op0 .rola, .op0 .deca, .op1 .dbnza, .op0 .inca, .op0 .tsta,
   .op2 (fun src dst => .mov (.dirDir src dst)), .op0 .clra]

/-- Column $5: the same rows on X. -/
def indexColumn : List OpcodeCell :=
  [.op0 .negx, .op2 .cbeqx, .op0 .div, .op0 .comx, .op0 .lsrx,
   .op1 (fun dd => .ldhx (.dir dd)), .op0 .rorx, .op0 .asrx,
   .op0 .lslx, .op0 .rolx, .op0 .decx, .op1 .dbnzx, .op0 .incx, .op0 .tstx,
   .op1 (fun src => .mov (.dirIxInc src)), .op0 .clrx]

/-- Column $8: control and register instructions. -/
def controlColumn : List OpcodeCell :=
  [.op0 .rti, .op0 .rts, .illegal, .op0 .swi, .op0 .tap, .op0 .tpa, .op0 .pula, .op0 .psha,
   .op0 .pulx, .op0 .pshx, .op0 .pulh, .op0 .pshh, .op0 .clrh, .illegal, .op0 .stop, .op0 .wait]

/-- Column $9: signed branches, register instructions, and the pre-byte at $9E. -/
def registerColumn : List OpcodeCell :=
  [.op1 .bge, .op1 .blt, .op1 .bgt, .op1 .ble, .op0 .txs, .op0 .tsx, .illegal, .op0 .tax,
   .op0 .clc, .op0 .sec, .op0 .cli, .op0 .sei, .op0 .rsp, .op0 .nop, .illegal, .op0 .txa]

/-- A register/memory column ($A to $F, $9E Dx, $9E Ex); rows $7, $C, $D, $F are the column's own. -/
def aluColumn (cell : (Src → Instr) → OpcodeCell) (row7 rowC rowD rowF : OpcodeCell) :
    List OpcodeCell :=
  [cell .sub, cell .cmp, cell .sbc, cell .cpx, cell .and, cell .bit, cell .lda, row7,
   cell .eor, cell .adc, cell .ora, cell .add, rowC, rowD, cell .ldx, rowF]

/-- A column with no instruction. -/
def emptyColumn : List OpcodeCell := List.replicate 16 .illegal

/-- The main page (R90), columns $0 to $F. -/
def mainPage : List (List OpcodeCell) :=
  [bitBranchColumn, bitChangeColumn, branchColumn,
   rmwColumn (fun f => .op1 fun dd => f (.dir dd))
     (.op2 fun dd rr => .cbeq (.dir dd) rr) .illegal (.op1 .sthx)
     (.op2 fun dd rr => .dbnz (.dir dd) rr) .illegal,
   accumulatorColumn, indexColumn,
   rmwColumn (fun f => .op1 fun ff => f (.ix1 ff))
     (.op2 fun ff rr => .cbeq (.ix1Inc ff) rr) (.op0 .nsa)
     (.op2 fun ii jj => .cphx (.imm (join ii jj)))
     (.op2 fun ff rr => .dbnz (.ix1 ff) rr) (.op2 fun ii dst => .mov (.immDir ii dst)),
   rmwColumn (fun f => .op0 (f .ix))
     (.op1 fun rr => .cbeq .ixInc rr) (.op0 .daa) (.op1 fun dd => .cphx (.dir dd))
     (.op1 fun rr => .dbnz .ix rr) (.op1 fun dst => .mov (.ixIncDir dst)),
   controlColumn, registerColumn,
   aluColumn (fun f => .op1 fun ii => f (.imm ii)) (.op1 .ais) .illegal (.op1 .bsr) (.op1 .aix),
   aluColumn (fun f => .op1 fun dd => f (.mem (.dir dd)))
     (.op1 fun dd => .sta (.dir dd)) (.op1 fun dd => .jmp (.dir dd))
     (.op1 fun dd => .jsr (.dir dd)) (.op1 fun dd => .stx (.dir dd)),
   aluColumn (fun f => .op2 fun hh ll => f (.mem (.ext (join hh ll))))
     (.op2 fun hh ll => .sta (.ext (join hh ll))) (.op2 fun hh ll => .jmp (.ext (join hh ll)))
     (.op2 fun hh ll => .jsr (.ext (join hh ll))) (.op2 fun hh ll => .stx (.ext (join hh ll))),
   aluColumn (fun f => .op2 fun ee ff => f (.mem (.ix2 (join ee ff))))
     (.op2 fun ee ff => .sta (.ix2 (join ee ff))) (.op2 fun ee ff => .jmp (.ix2 (join ee ff)))
     (.op2 fun ee ff => .jsr (.ix2 (join ee ff))) (.op2 fun ee ff => .stx (.ix2 (join ee ff))),
   aluColumn (fun f => .op1 fun ff => f (.mem (.ix1 ff)))
     (.op1 fun ff => .sta (.ix1 ff)) (.op1 fun ff => .jmp (.ix1 ff))
     (.op1 fun ff => .jsr (.ix1 ff)) (.op1 fun ff => .stx (.ix1 ff)),
   aluColumn (fun f => .op0 (f (.mem .ix)))
     (.op0 (.sta .ix)) (.op0 (.jmp .ix)) (.op0 (.jsr .ix)) (.op0 (.stx .ix))]

/-- The pre-byte page (R91): the byte after $9E. SP1 stands in columns $6 and $E, SP2 in column $D. -/
def preBytePage : List (List OpcodeCell) :=
  [emptyColumn, emptyColumn, emptyColumn, emptyColumn, emptyColumn, emptyColumn,
   rmwColumn (fun f => .op1 fun ff => f (.sp1 ff))
     (.op2 fun ff rr => .cbeq (.sp1 ff) rr) .illegal .illegal
     (.op2 fun ff rr => .dbnz (.sp1 ff) rr) .illegal,
   emptyColumn, emptyColumn, emptyColumn, emptyColumn, emptyColumn, emptyColumn,
   aluColumn (fun f => .op2 fun ee ff => f (.mem (.sp2 (join ee ff))))
     (.op2 fun ee ff => .sta (.sp2 (join ee ff))) .illegal .illegal
     (.op2 fun ee ff => .stx (.sp2 (join ee ff))),
   aluColumn (fun f => .op1 fun ff => f (.mem (.sp1 ff)))
     (.op1 fun ff => .sta (.sp1 ff)) .illegal .illegal (.op1 fun ff => .stx (.sp1 ff)),
   emptyColumn]

/-- The cell an opcode byte selects: high nibble the column, low nibble the row (R89). -/
def cellAt (page : List (List OpcodeCell)) (op : Byte) : OpcodeCell :=
  ((page.getD (op.toNat / 16) []).getD (op.toNat % 16) .illegal)

/-- Consume a cell's operand bytes from `bs`; `err` is the answer where the cell holds nothing. -/
def OpcodeCell.read (bs : List Byte) (err : DecodeError) : OpcodeCell →
    Except DecodeError (Instr × List Byte)
  | .illegal => .error err
  | .op0 i => .ok (i, bs)
  | .op1 f =>
    match bs with
    | b :: rest => .ok (f b, rest)
    | [] => .error .truncated
  | .op2 f =>
    match bs with
    | b :: c :: rest => .ok (f b c, rest)
    | [_] | [] => .error .truncated

/-- The pre-byte of the stack-pointer-relative forms (R88). -/
def preByte : Byte := 0x9E#8

/-- The instruction at the head of the bytes, and the bytes after it (R83). -/
def decode : List Byte → Except DecodeError (Instr × List Byte)
  | [] => .error .truncated
  | op :: rest =>
    if op = preByte then
      match rest with
      | [] => .error .truncated
      | op2 :: rest2 => (cellAt preBytePage op2).read rest2 (.illegalAfterPrebyte op2)
    else (cellAt mainPage op).read rest (.illegalOpcode op)

/-- Opcode and operand bytes of a register/memory instruction on a memory operand, `lo` its row. -/
def encodeAluMem (lo : Byte) : MemOperand → List Byte
  | .dir dd => [0xB0#8 ||| lo, dd]
  | .ext w => [0xC0#8 ||| lo, hiByte w, loByte w]
  | .ix2 w => [0xD0#8 ||| lo, hiByte w, loByte w]
  | .ix1 ff => [0xE0#8 ||| lo, ff]
  | .ix => [0xF0#8 ||| lo]
  | .sp1 ff => [preByte, 0xE0#8 ||| lo, ff]
  | .sp2 w => [preByte, 0xD0#8 ||| lo, hiByte w, loByte w]

/-- The same with the immediate form. -/
def encodeAlu (lo : Byte) : Src → List Byte
  | .imm ii => [0xA0#8 ||| lo, ii]
  | .mem m => encodeAluMem lo m

/-- JMP and JSR: no SP-relative form; the empty list for an ill-formed operand. -/
def encodeJump (lo : Byte) (m : MemOperand) : List Byte :=
  if m.isJump then encodeAluMem lo m else []

/-- A read-modify-write row on a memory operand; the empty list for an ill-formed operand. -/
def encodeRmw (lo : Byte) : MemOperand → List Byte
  | .dir dd => [0x30#8 ||| lo, dd]
  | .ix1 ff => [0x60#8 ||| lo, ff]
  | .ix => [0x70#8 ||| lo]
  | .sp1 ff => [preByte, 0x60#8 ||| lo, ff]
  | .ext _ | .ix2 _ | .sp2 _ => []

/-- The bit number in opcode bits 3:1 (R87). -/
def encodeBitOpcode (base : Byte) (n : BitVec 3) : Byte := base ||| (n.setWidth 8 <<< 1)

/-- The bytes of a well-formed instruction (R81, R84, R90, R91); the empty list for an ill-formed one. -/
def encode : Instr → List Byte
  | .brset n dd rr => [encodeBitOpcode 0x00#8 n, dd, rr]
  | .brclr n dd rr => [encodeBitOpcode 0x01#8 n, dd, rr]
  | .bset n dd => [encodeBitOpcode 0x10#8 n, dd]
  | .bclr n dd => [encodeBitOpcode 0x11#8 n, dd]
  | .bra rr => [0x20#8, rr]
  | .brn rr => [0x21#8, rr]
  | .bhi rr => [0x22#8, rr]
  | .bls rr => [0x23#8, rr]
  | .bcc rr => [0x24#8, rr]
  | .bcs rr => [0x25#8, rr]
  | .bne rr => [0x26#8, rr]
  | .beq rr => [0x27#8, rr]
  | .bhcc rr => [0x28#8, rr]
  | .bhcs rr => [0x29#8, rr]
  | .bpl rr => [0x2A#8, rr]
  | .bmi rr => [0x2B#8, rr]
  | .bmc rr => [0x2C#8, rr]
  | .bms rr => [0x2D#8, rr]
  | .bil rr => [0x2E#8, rr]
  | .bih rr => [0x2F#8, rr]
  | .bge rr => [0x90#8, rr]
  | .blt rr => [0x91#8, rr]
  | .bgt rr => [0x92#8, rr]
  | .ble rr => [0x93#8, rr]
  | .neg m => encodeRmw 0x0#8 m
  | .nega => [0x40#8]
  | .negx => [0x50#8]
  | .com m => encodeRmw 0x3#8 m
  | .coma => [0x43#8]
  | .comx => [0x53#8]
  | .lsr m => encodeRmw 0x4#8 m
  | .lsra => [0x44#8]
  | .lsrx => [0x54#8]
  | .ror m => encodeRmw 0x6#8 m
  | .rora => [0x46#8]
  | .rorx => [0x56#8]
  | .asr m => encodeRmw 0x7#8 m
  | .asra => [0x47#8]
  | .asrx => [0x57#8]
  | .lsl m => encodeRmw 0x8#8 m
  | .lsla => [0x48#8]
  | .lslx => [0x58#8]
  | .rol m => encodeRmw 0x9#8 m
  | .rola => [0x49#8]
  | .rolx => [0x59#8]
  | .dec m => encodeRmw 0xA#8 m
  | .deca => [0x4A#8]
  | .decx => [0x5A#8]
  | .inc m => encodeRmw 0xC#8 m
  | .inca => [0x4C#8]
  | .incx => [0x5C#8]
  | .tst m => encodeRmw 0xD#8 m
  | .tsta => [0x4D#8]
  | .tstx => [0x5D#8]
  | .clr m => encodeRmw 0xF#8 m
  | .clra => [0x4F#8]
  | .clrx => [0x5F#8]
  | .cbeq (.dir dd) rr => [0x31#8, dd, rr]
  | .cbeq (.ix1Inc ff) rr => [0x61#8, ff, rr]
  | .cbeq .ixInc rr => [0x71#8, rr]
  | .cbeq (.sp1 ff) rr => [preByte, 0x61#8, ff, rr]
  | .cbeqa ii rr => [0x41#8, ii, rr]
  | .cbeqx ii rr => [0x51#8, ii, rr]
  | .dbnz m rr => if m.isRmw then encodeRmw 0xB#8 m ++ [rr] else []
  | .dbnza rr => [0x4B#8, rr]
  | .dbnzx rr => [0x5B#8, rr]
  | .mul => [0x42#8]
  | .div => [0x52#8]
  | .nsa => [0x62#8]
  | .daa => [0x72#8]
  | .sthx dd => [0x35#8, dd]
  | .ldhx (.imm w) => [0x45#8, hiByte w, loByte w]
  | .ldhx (.dir dd) => [0x55#8, dd]
  | .cphx (.imm w) => [0x65#8, hiByte w, loByte w]
  | .cphx (.dir dd) => [0x75#8, dd]
  | .mov (.dirDir src dst) => [0x4E#8, src, dst]
  | .mov (.dirIxInc src) => [0x5E#8, src]
  | .mov (.immDir ii dst) => [0x6E#8, ii, dst]
  | .mov (.ixIncDir dst) => [0x7E#8, dst]
  | .rti => [0x80#8]
  | .rts => [0x81#8]
  | .swi => [0x83#8]
  | .tap => [0x84#8]
  | .tpa => [0x85#8]
  | .pula => [0x86#8]
  | .psha => [0x87#8]
  | .pulx => [0x88#8]
  | .pshx => [0x89#8]
  | .pulh => [0x8A#8]
  | .pshh => [0x8B#8]
  | .clrh => [0x8C#8]
  | .stop => [0x8E#8]
  | .wait => [0x8F#8]
  | .txs => [0x94#8]
  | .tsx => [0x95#8]
  | .tax => [0x97#8]
  | .clc => [0x98#8]
  | .sec => [0x99#8]
  | .cli => [0x9A#8]
  | .sei => [0x9B#8]
  | .rsp => [0x9C#8]
  | .nop => [0x9D#8]
  | .txa => [0x9F#8]
  | .sub s => encodeAlu 0x0#8 s
  | .cmp s => encodeAlu 0x1#8 s
  | .sbc s => encodeAlu 0x2#8 s
  | .cpx s => encodeAlu 0x3#8 s
  | .and s => encodeAlu 0x4#8 s
  | .bit s => encodeAlu 0x5#8 s
  | .lda s => encodeAlu 0x6#8 s
  | .eor s => encodeAlu 0x8#8 s
  | .adc s => encodeAlu 0x9#8 s
  | .ora s => encodeAlu 0xA#8 s
  | .add s => encodeAlu 0xB#8 s
  | .ldx s => encodeAlu 0xE#8 s
  | .sta m => encodeAluMem 0x7#8 m
  | .jmp m => encodeJump 0xC#8 m
  | .jsr m => encodeJump 0xD#8 m
  | .stx m => encodeAluMem 0xF#8 m
  | .ais ii => [0xA7#8, ii]
  | .bsr rr => [0xAD#8, rr]
  | .aix ii => [0xAF#8, ii]

/-- The bytes of an instruction whose bits are `w`, as spec/opcode_table.json numbers them: the whole
encoding is one number, the first byte its most significant one (log 23). Zero bytes follow up to the
longest instruction, four bytes (R80). -/
def tableBytes (nbits w : Nat) : List Byte :=
  ((List.range (nbits / 8)).map fun k => BitVec.ofNat 8 (w / 2 ^ (nbits - 8 * (k + 1))))
    ++ List.replicate (4 - nbits / 8) 0#8

/-- The instruction the decoder reads from an instruction whose bits are `w`. -/
def decodeTableWord (nbits w : Nat) : Option Instr :=
  match decode (tableBytes nbits w) with
  | .ok (i, _) => some i
  | .error _ => none

end Sys2Proof
end

