-- ==== Sys2Proof/Config.lean ====
section
/-! DEFINITION. What an implementation fixes. Two kinds: the platform parameters of R9 and D16, plain
data that the state carries and no step changes (log 5); and the free values the spec leaves open,
constants with no body, so that nothing can be proved of their values (U1 to U5, U11). -/

namespace Sys2Proof

/-- Interrupt sources: those of the vector table (R312), those that belong to other members of the family
(R310), and any other source of a part by a number. Which of them a part has, with their vectors and
priorities, is Platform.sources. -/
inductive IntSource where
  | timebase
  | adc
  | keyboard
  | sciTransmit
  | sciReceive
  | sciError
  | timOverflow
  | timChannel1
  | timChannel0
  | cmireq
  /-- The external interrupt pin. -/
  | irq1
  | spi
  /-- CGM (PLL). -/
  | cgm
  | other (n : Nat)
deriving DecidableEq, Repr

/-- The causes of reset (R16, R302, C17). -/
inductive ResetCause where
  | powerOn
  | externalPin
  | cop
  | lvi
  | illegalAddress
  | illegalOpcode
deriving DecidableEq, Repr

/-- The two parallel ports of D1's part (R339). -/
inductive Port where
  | a
  | b
deriving DecidableEq, Repr

/-- What answers at an address (R69, R70). An address of no region has no memory (R71). -/
inductive Space where
  /-- Read and write memory. -/
  | ram
  /-- FLASH or ROM: a write changes nothing (D6). -/
  | rom
  /-- The monitor ROM (R307). -/
  | monitorRom
  /-- A port data register (R339). -/
  | portData (p : Port)
  /-- A data direction register (R339). -/
  | portDirection (p : Port)
  /-- CONFIG1 (R335). -/
  | config1
  /-- CONFIG2 (R335). -/
  | config2
  /-- The SIM's Reset Status Register (R305). -/
  | resetStatus
  /-- Any other I/O register: its content is the environment's (R64, R338). -/
  | io
  /-- No memory and no device (R71). -/
  | unimplemented
deriving DecidableEq, Repr

/-- A range of addresses of one kind. -/
structure Region where
  base : Nat
  size : Nat
  space : Space
deriving DecidableEq, Repr

/-- A range of addresses, both ends included. -/
structure AddrRange where
  first : Nat
  last : Nat
deriving DecidableEq, Repr

/-- Where a source's local enable bit lies (R318: "platform state written through MemMap registers"). -/
structure EnableBit where
  address : Nat
  bit : BitVec 3
  source : IntSource
deriving DecidableEq, Repr

/-- One of a part's interrupt sources (R9, R312). -/
structure SourceEntry where
  source : IntSource
  vector : Word
  /-- 1 is the highest priority; of two entries with one priority the first in the list goes first (log 34). -/
  priority : Nat
deriving DecidableEq, Repr

/-- The parameters of R9 and D16. -/
structure Platform where
  /-- `MemMap`: the first region that holds an address decides. -/
  map : List Region
  /-- `IllegalFetch`: an opcode fetch outside these ranges resets (R307, D10). -/
  legalFetch : List AddrRange
  /-- `IntSources`: the sources the part has, with their vectors and priorities (R9, R310). -/
  sources : List SourceEntry
  /-- The addresses of the local enable bits (R318). -/
  enableBits : List EnableBit
  /-- The sources that need no clock and can end STOP (R294, R342). -/
  stopWakers : List IntSource
  /-- `CliDelay` = 1 (R320, D7). -/
  cliDelay : Bool
  /-- `CopEnabled` right after reset (D16). -/
  copOnAtReset : Bool
  /-- `CopTimeout` in bus cycles (R337). -/
  copTimeout : Nat
  /-- Bus cycles of an interrupt entry, which the spec does not give (N12). -/
  entryCycles : Nat
  /-- Bus cycles that one step in the waiting state stands for (timing only). -/
  waitCycles : Nat
  /-- `PorDelay`: cycles from oscillator start to the end of a power-on reset; timing only, no rule of the
  instruction level depends on it (R353). -/
  porDelay : Nat
  /-- `fBus`: the bus clock in hertz; timing only (R370). -/
  fBus : Nat
deriving DecidableEq, Repr

/-- What an address of memory that no cell lists reads as: $00. DESIGN CHOICE, unsafe (log 3). -/
def Config.unlistedByte : Byte := 0x00#8

/-! Free values. The first argument is State.draws, which every boundary advances; `k` numbers the reads
or values of one step, so that two draws never share an argument (log 12). -/

/-- The byte read from an address with no memory (R71, U5). -/
opaque Config.openByte (draw k : Nat) : Byte

/-- The byte read from an I/O register whose content is the environment's (R64, U11). -/
opaque Config.ioByte (draw k : Nat) : Byte

/-- What DDRA, DDRB, CONFIG1 or CONFIG2, holding `held`, reads as (R64, R335; log 14). -/
opaque Config.registerByte (draw k : Nat) (held : Byte) : Byte

/-- The byte the environment offers for a read of the Reset Status Register (R305, N20; log 22). -/
opaque Config.resetStatusByte (draw k : Nat) (cause : ResetCause) : Byte

/-- A byte of the Reset Status Register that names the cause, where no other cause has it (R305; log 22). -/
opaque Config.resetStatusCode (cause : ResetCause) : Byte

/-- The cause that any further byte of the Reset Status Register names, if it names one (R305; log 22). -/
opaque Config.resetStatusName (b : Byte) : Option ResetCause

/-- Whether the COP is enabled after a write of `v`, not $01, to CONFIG1 (R335, N22; log 13). -/
opaque Config.copEnabledBy (v : Byte) : Bool

/-- A, X, H and the I/O registers the reset list does not name, after a reset in a run (R42, U1). -/
opaque Config.resetByte (draw k : Nat) : Byte

/-- V, Hf, N, Z, C after a reset in a run (R42, U1). -/
opaque Config.resetFlag (draw k : Nat) : Bool

/-- RAM after a power-on reset in a run (R309, D11). -/
opaque Config.powerOnRam (draw : Nat) : List Host.Cell

/-- A after DIV with a quotient over 255 or X = 0 (R178, U2). -/
opaque Config.divA (draw : Nat) : Byte

/-- H after such a DIV (U2). -/
opaque Config.divH (draw : Nat) : Byte

/-- Z after such a DIV (U2). -/
opaque Config.divZ (draw : Nat) : Bool

/-- A after DAA outside its table (R290, U3). -/
opaque Config.daaA (draw : Nat) : Byte

/-- C after such a DAA (U3). -/
opaque Config.daaC (draw : Nat) : Bool

/-- N after such a DAA (U3). -/
opaque Config.daaN (draw : Nat) : Bool

/-- Z after such a DAA (U3). -/
opaque Config.daaZ (draw : Nat) : Bool

/-- V after every DAA (R290, U4). -/
opaque Config.daaV (draw : Nat) : Bool

end Sys2Proof
end

