-- ==== Sys2Proof/Machine/Platforms.lean ====
section
/-! DEFINITION. The vector table of D1's part and two platforms. -/

namespace Sys2Proof

/-- The vector table of D1's part, with the priorities of its third column (R312): IntSources for that part. -/
def IntSource.table : List SourceEntry :=
  [⟨.irq1, 0xFFFA#16, 1⟩, ⟨.cmireq, 0xFFF8#16, 2⟩, ⟨.timChannel0, 0xFFF6#16, 3⟩,
   ⟨.timChannel1, 0xFFF4#16, 4⟩, ⟨.timOverflow, 0xFFF2#16, 5⟩, ⟨.sciError, 0xFFE6#16, 6⟩,
   ⟨.sciReceive, 0xFFE4#16, 7⟩, ⟨.sciTransmit, 0xFFE2#16, 8⟩, ⟨.keyboard, 0xFFE0#16, 9⟩,
   ⟨.adc, 0xFFDE#16, 10⟩, ⟨.timebase, 0xFFDC#16, 11⟩]

/-- The platform State.reset carries: RAM at every address and every opcode fetch legal, the conventions
of the spec's test vectors (95_test_vectors.md). DESIGN CHOICE, unsafe (log 4); CliDelay and CopTimeout
PRESUMED (logs 6 and 7). -/
def Platform.flat : Platform where
  map := [⟨0, 65536, .ram⟩]
  legalFetch := [⟨0, 65535⟩]
  sources := IntSource.table
  enableBits := []
  stopWakers := [.irq1]
  cliDelay := true
  copOnAtReset := true
  copTimeout := 262128
  entryCycles := 9
  waitCycles := 1
  porDelay := 4064
  fBus := 8000000

/-- D1's example part (R70, R356): ports, configuration registers, RAM from $0040, FLASH from $EC00; D1's
literal reading of IllegalFetch. The extents it does not give are DESIGN CHOICE (log 4): the end of RAM, the I/O
window, FLASH up to $FFFF (5 KiB, where D1 has about 8), and no monitor ROM, so none to fetch from. -/
def Platform.example908 : Platform where
  map := [⟨0x0000, 1, .portData .a⟩, ⟨0x0001, 1, .portData .b⟩, ⟨0x0004, 1, .portDirection .a⟩,
    ⟨0x0005, 1, .portDirection .b⟩, ⟨0x001E, 1, .config2⟩, ⟨0x001F, 1, .config1⟩,
    ⟨0x0000, 0x40, .io⟩, ⟨0x0040, 0x0100, .ram⟩, ⟨0xEC00, 0x1400, .rom⟩]
  legalFetch := [⟨0xEC00, 0xFFFF⟩]
  sources := IntSource.table
  enableBits := []
  stopWakers := [.irq1]
  cliDelay := true
  copOnAtReset := true
  copTimeout := 262128
  entryCycles := 9
  waitCycles := 1
  porDelay := 4064
  fBus := 8000000

end Sys2Proof
end

