-- ==== Sys2Proof/Machine/State.lean ====
section
/-! DEFINITION. The state of the machine, its faults and refusals, and the state right after reset. Plain
data throughout; INVENTORY.md lists every field with its rule and its reset value. -/

namespace Sys2Proof.Machine

/-- The six flags of the condition code register (R30). Bits 6 and 5 of the byte are fixed at 1 and have
no storage (U14); CCR.toByte and CCR.ofByte give the byte's layout. -/
structure CCR where
  /-- V, overflow (R31). -/
  v : Bool
  /-- Hf, half-carry (R32). -/
  hf : Bool
  /-- I, interrupt mask (R33). -/
  i : Bool
  /-- N, negative (R34). -/
  n : Bool
  /-- Z, zero (R35). -/
  z : Bool
  /-- C, carry or borrow (R36). -/
  c : Bool
deriving DecidableEq, Repr

/-- The STOP and WAIT latches (R40, R342): running means both are clear. -/
inductive Power where
  | running
  | waiting
  | stopped
deriving DecidableEq, Repr

/-- One bit for each interrupt source (R312, R318). -/
structure SourceFlags where
  timebase : Bool
  adc : Bool
  keyboard : Bool
  sciTransmit : Bool
  sciReceive : Bool
  sciError : Bool
  timOverflow : Bool
  timChannel1 : Bool
  timChannel0 : Bool
  cmireq : Bool
  irq1 : Bool
  spi : Bool
  cgm : Bool
  /-- The numbers of the other sources whose bit is set, rising. -/
  others : List Nat
deriving DecidableEq, Repr

/-- No source. -/
def SourceFlags.none : SourceFlags :=
  ⟨false, false, false, false, false, false, false, false, false, false, false, false, false, []⟩

/-- The levels that one bus read of a step, by its number, finds at the pins of a port (R64, U11). -/
structure PinRead where
  read : Nat
  port : Port
  levels : Byte
deriving DecidableEq, Repr

/-- What the environment presents from one instruction boundary to the next (R306, R339, D4, D13; log 9). -/
structure Inputs where
  /-- An asynchronous reset that is being asserted (R306). -/
  reset : Option ResetCause
  /-- The level of the IRQ pin at the boundary, true for high (R317). -/
  irqPin : Bool
  /-- Its level when the instruction executes, which BIH and BIL see (R255). -/
  irqPinLater : Bool
  /-- The external interrupt latch is set since the last boundary by more than the levels there show: a pulse
  between two boundaries, or the low level on a part that takes it (R317, G9; log 10). -/
  irqRequest : Bool
  /-- `pending[s]` of every source but IRQ1, whose request is State.irqLatch (D13). -/
  requests : SourceFlags
  /-- The levels at the pins of port A for every bus read that pinReads does not list (R339). -/
  pinsA : Byte
  /-- The same for port B (R339). -/
  pinsB : Byte
  /-- The bus reads that find other levels: pins may change between any two accesses (U11, D4). -/
  pinReads : List PinRead
deriving DecidableEq, Repr

/-- The bytes of memory as listed cells, in the canonical form of Memory.wf. -/
abbrev Memory := List Host.Cell

/-- The machine (R20 to R42, R335 to R342). -/
structure State where
  /-- Accumulator (R20). -/
  a : Byte
  /-- High half of the index register (R23). -/
  h : Byte
  /-- Low half of the index register (R22). -/
  x : Byte
  /-- Stack pointer: the next free byte of the stack (R24). -/
  sp : Word
  /-- Program counter (R26). -/
  pc : Word
  /-- Condition code register (R30). -/
  ccr : CCR
  /-- The STOP and WAIT latches (R40). -/
  power : Power
  /-- The boundary right after a CLI or TAP that cleared I (R320, R327). -/
  cliWindow : Bool
  /-- The addresses the instruction just completed stored to (R68, log 18). -/
  stored : List Word
  /-- External interrupt latch: `pending[IRQ1]` (R317, D13). -/
  irqLatch : Bool
  /-- The local enable bits (R318). -/
  enable : SourceFlags
  /-- Output latch of port A (R339). -/
  portA : Byte
  /-- Output latch of port B (R339). -/
  portB : Byte
  /-- Data direction of port A, 1 for output (R339). -/
  ddrA : Byte
  /-- Data direction of port B (R339). -/
  ddrB : Byte
  /-- CONFIG1 as last written (R335). -/
  config1 : Byte
  /-- CONFIG2 as last written (R335). -/
  config2 : Byte
  /-- `CopEnabled` (R337). -/
  copEnabled : Bool
  /-- COP counter in bus cycles (R337). -/
  copCounter : Nat
  /-- The cause of the most recent reset, which the SIM records (R305, R352). -/
  resetCause : ResetCause
  /-- What the environment presents now. -/
  inputs : Inputs
  /-- What it will present at the coming boundaries; when the list ends the inputs stay (log 9). -/
  schedule : List Inputs
  /-- Memory (R50). -/
  mem : Memory
  /-- The argument of the free values; the model's own counter (log 12). -/
  draws : Nat
  /-- The writes to I/O addresses so far, newest first (D14; log 30). -/
  outputs : List Host.Cell
  /-- The platform's parameters (R9). -/
  plat : Platform
deriving DecidableEq, Repr

/-- No event of this hardware stops it: its exceptions are resets and interrupts, and both go on (R300,
R303). So no step raises a fault. -/
inductive Fault where
deriving DecidableEq, Repr

/-- Why the model gives no next state. -/
inductive Refusal where
  /-- Raised by no arm: every instruction has its meaning. Safe. -/
  | notModelled (mnemonic : String)
  /-- Raised by the step where the first byte of the next instruction was stored to by the instruction
  before it: the spec refuses such a program (R68, D5, U10). Safe. -/
  | storeToNextOpcode
deriving DecidableEq, Repr

/-- What executing an instruction or a step answers. -/
abbrev Result := Host.Outcome State Fault Refusal

/-- Nothing asserted, the IRQ pin high, every port pin low. DESIGN CHOICE, unsafe (log 33). -/
def Inputs.quiet : Inputs := ⟨none, true, true, false, SourceFlags.none, 0x00#8, 0x00#8, []⟩

/-- The machine right after a power-on reset (R41, R350, D14): SP, I, the latches, the DDRs and the enables
as the spec gives them; PC the reset vector of a memory that lists nothing; the values the spec does not
give are the ones of logs 1, 3, 4, 7, 15, 31 and 33. -/
def State.reset : State where
  a := 0x00#8
  h := 0x00#8
  x := 0x00#8
  sp := 0x00FF#16
  pc := 0x0000#16
  ccr := ⟨false, false, true, false, false, false⟩
  power := .running
  cliWindow := false
  stored := []
  irqLatch := false
  enable := SourceFlags.none
  portA := 0x00#8
  portB := 0x00#8
  ddrA := 0x00#8
  ddrB := 0x00#8
  config1 := 0x00#8
  config2 := 0x00#8
  copEnabled := true
  copCounter := 0
  resetCause := .powerOn
  inputs := Inputs.quiet
  schedule := []
  mem := []
  draws := 0
  outputs := []
  plat := Platform.flat

end Sys2Proof.Machine
end

