-- ==== Sys2Proof/Machine/Flags.lean ====
section
/-! DEFINITION. The condition code register as a byte (R30), and every result and flag computation the
spec gives: addition, subtraction and comparison (R170 to R172), the single-operand instructions (R179 to
R182, R186, R187), shifts and rotates (R221 to R227), decimal adjust (R290). -/

namespace Sys2Proof.Machine

/-- A flag as one bit. -/
def flagBit (b : Bool) : BitVec 1 := BitVec.ofBool b

/-- The CCR as a byte: V : 1 : 1 : Hf : I : N : Z : C (R30). -/
def CCR.toByte (f : CCR) : Byte :=
  flagBit f.v ++ 3#2 ++ flagBit f.hf ++ flagBit f.i ++ flagBit f.n ++ flagBit f.z ++ flagBit f.c

/-- `CCR <- v`: bits 6 and 5 are ignored (R30, R152). -/
def CCR.ofByte (b : Byte) : CCR where
  v := b.getLsbD 7
  hf := b.getLsbD 4
  i := b.getLsbD 3
  n := b.getLsbD 2
  z := b.getLsbD 1
  c := b.getLsbD 0

/-- `NZ8(r)` (R15). -/
def CCR.nz8 (f : CCR) (r : Byte) : CCR := { f with n := r.getLsbD 7, z := r == 0#8 }

/-- `NZ16(r)` (R15). -/
def CCR.nz16 (f : CCR) (r : Word) : CCR := { f with n := r.getLsbD 15, z := r == 0#16 }

/-- `V <- 0; NZ8(r)`: loads, stores, logic, TST (R140, R143, R187, R200). -/
def CCR.move8 (f : CCR) (r : Byte) : CCR := { f.nz8 r with v := false }

/-- `V <- 0; NZ16(r)`: LDHX and STHX (R142, R145). -/
def CCR.move16 (f : CCR) (r : Word) : CCR := { f.nz16 r with v := false }

/-- The carry into an 8-bit addition or subtraction, as a byte. -/
def carryByte (c : Bool) : Byte := (flagBit c).setWidth 8

/-- The result of `Add8(a, m, c)` (R170). -/
def addResult (a m : Byte) (c : Bool) : Byte := a + m + carryByte c

/-- The flags of `Add8(a, m, c)` (R170). -/
def CCR.addFlags (f : CCR) (a m : Byte) (c : Bool) : CCR :=
  let r := addResult a m c
  { f.nz8 r with
    c := decide (a.toNat + m.toNat + (carryByte c).toNat > 255)
    hf := decide (a.toNat % 16 + m.toNat % 16 + (carryByte c).toNat > 15)
    v := (a.getLsbD 7 && m.getLsbD 7 && !r.getLsbD 7)
      || (!a.getLsbD 7 && !m.getLsbD 7 && r.getLsbD 7) }

/-- The result of `Sub8(a, m, c)` (R171). -/
def subResult (a m : Byte) (c : Bool) : Byte := a - m - carryByte c

/-- The flags of `Sub8(a, m, c)`; Hf is not written (R171). -/
def CCR.subFlags (f : CCR) (a m : Byte) (c : Bool) : CCR :=
  let r := subResult a m c
  { f.nz8 r with
    c := decide (m.toNat + (carryByte c).toNat > a.toNat)
    v := (a.getLsbD 7 && !m.getLsbD 7 && !r.getLsbD 7)
      || (!a.getLsbD 7 && m.getLsbD 7 && r.getLsbD 7) }

/-- The flags of `Sub16(a, m)` (R172). -/
def CCR.sub16Flags (f : CCR) (a m : Word) : CCR :=
  let r := a - m
  { f.nz16 r with
    c := decide (m.toNat > a.toNat)
    v := (a.getLsbD 15 && !m.getLsbD 15 && !r.getLsbD 15)
      || (!a.getLsbD 15 && m.getLsbD 15 && r.getLsbD 15) }

/-- INC: V exactly when $7F becomes $80; C not written (R179). -/
def CCR.incFlags (f : CCR) (v : Byte) : CCR := { f.nz8 (v + 1#8) with v := v == 0x7F#8 }

/-- DEC: V exactly when $80 becomes $7F; C not written (R180). -/
def CCR.decFlags (f : CCR) (v : Byte) : CCR := { f.nz8 (v - 1#8) with v := v == 0x80#8 }

/-- The result of COM: `v ^ $FF` (R181). -/
def comResult (v : Byte) : Byte := v ^^^ 0xFF#8

/-- COM: V 0, C 1 (R181). -/
def CCR.comFlags (f : CCR) (v : Byte) : CCR := { f.nz8 (comResult v) with v := false, c := true }

/-- The result of NEG (R182). -/
def negResult (v : Byte) : Byte := 0#8 - v

/-- NEG: V exactly on $80, C exactly when the result is not 0 (R182). -/
def CCR.negFlags (f : CCR) (v : Byte) : CCR :=
  { f.nz8 (negResult v) with v := v == 0x80#8, c := negResult v != 0#8 }

/-- CLR: V 0, N 0, Z 1 (R186). -/
def CCR.clrFlags (f : CCR) : CCR := { f with v := false, n := false, z := true }

/-- The flags of the shifts and rotates: the bit that leaves to C, NZ8, `V <- N ^ C` (R227). -/
def CCR.shiftFlags (f : CCR) (r : Byte) (out : Bool) : CCR :=
  { f.nz8 r with c := out, v := r.getLsbD 7 ^^ out }

/-- LSL, the same as ASL: `v[6:0] : 0` (R222, R220). -/
def lslResult (v : Byte) : Byte := v <<< 1

/-- LSR: `0 : v[7:1]` (R223). -/
def lsrResult (v : Byte) : Byte := v >>> 1

/-- ASR: `v[7] : v[7:1]` (R221). -/
def asrResult (v : Byte) : Byte := v.sshiftRight 1

/-- ROL: `v[6:0] : C` (R224). -/
def rolResult (v : Byte) (c : Bool) : Byte := (v <<< 1) ||| carryByte c

/-- ROR: `C : v[7:1]` (R225). -/
def rorResult (v : Byte) (c : Bool) : Byte := (v >>> 1) ||| (carryByte c <<< 7)

/-- The flags of LSL and ROL for the operand v and the result r (R222, R224). -/
def CCR.leftFlags (f : CCR) (v r : Byte) : CCR := f.shiftFlags r (v.getLsbD 7)

/-- The flags of LSR, ASR and ROR for the operand v and the result r (R221, R223, R225). -/
def CCR.rightFlags (f : CCR) (v r : Byte) : CCR := f.shiftFlags r (v.getLsbD 0)

/-- One row of the DAA table (R290): C and Hf before, the ranges of the nibbles, the byte added, C after. -/
structure DaaRow where
  c : Bool
  hiFrom : Nat
  hiTo : Nat
  hf : Bool
  loFrom : Nat
  loTo : Nat
  add : Byte
  cAfter : Bool

/-- The nine rows of R290. -/
def daaTable : List DaaRow :=
  [⟨false, 0x0, 0x9, false, 0x0, 0x9, 0x00#8, false⟩,
   ⟨false, 0x0, 0x8, false, 0xA, 0xF, 0x06#8, false⟩,
   ⟨false, 0x0, 0x9, true, 0x0, 0x3, 0x06#8, false⟩,
   ⟨false, 0xA, 0xF, false, 0x0, 0x9, 0x60#8, true⟩,
   ⟨false, 0x9, 0xF, false, 0xA, 0xF, 0x66#8, true⟩,
   ⟨false, 0xA, 0xF, true, 0x0, 0x3, 0x66#8, true⟩,
   ⟨true, 0x0, 0x2, false, 0x0, 0x9, 0x60#8, true⟩,
   ⟨true, 0x0, 0x2, false, 0xA, 0xF, 0x66#8, true⟩,
   ⟨true, 0x0, 0x3, true, 0x0, 0x3, 0x66#8, true⟩]

/-- The row selects this C, Hf and A. -/
def DaaRow.selects (row : DaaRow) (f : CCR) (a : Byte) : Bool :=
  f.c == row.c && f.hf == row.hf
    && decide (row.hiFrom ≤ a.toNat / 16) && decide (a.toNat / 16 ≤ row.hiTo)
    && decide (row.loFrom ≤ a.toNat % 16) && decide (a.toNat % 16 ≤ row.loTo)

/-- The row of the table that C, Hf and A select, if any (R290). -/
def daaRow (f : CCR) (a : Byte) : Option DaaRow := daaTable.find? (·.selects f a)

end Sys2Proof.Machine
end

