-- ==== Sys2Proof/Machine/Ops.lean ====
section
/-! DEFINITION. The named operations over registers, memory and devices: the bus (R52 to R56, R64, R71,
R335 to R339), the stack (R14), interrupt entry and return (R321, R324, R271, R272) and the reset
sequence (R350). -/

namespace Sys2Proof

/-! The platform's map -/

/-- The region holds the address. -/
def Region.holds (r : Region) (a : Word) : Bool := r.base ≤ a.toNat && a.toNat < r.base + r.size

/-- What answers at an address: the first region that holds it; no region, no memory (R70, R71). -/
def Platform.spaceAt (p : Platform) (a : Word) : Space :=
  match p.map.find? (·.holds a) with
  | some r => r.space
  | none => .unimplemented

/-- The address is read and write memory. -/
def Platform.isRam (p : Platform) (n : Nat) : Bool :=
  decide (n < 65536) && p.spaceAt (BitVec.ofNat 16 n) == .ram

/-- Memory answers there: RAM, FLASH or ROM (R69). -/
def Space.isMemory : Space → Bool
  | .ram | .rom | .monitorRom => true
  | .portData _ | .portDirection _ | .config1 | .config2 | .resetStatus | .io | .unimplemented => false

/-- Memory answers at the address: RAM, FLASH or ROM. -/
def Platform.isMemory (p : Platform) (n : Nat) : Bool :=
  decide (n < 65536) && (p.spaceAt (BitVec.ofNat 16 n)).isMemory

/-- `IllegalFetch(a)` (R307, D10). -/
def Platform.illegalFetch (p : Platform) (a : Word) : Bool :=
  !p.legalFetch.any fun r => decide (r.first ≤ a.toNat) && decide (a.toNat ≤ r.last)

/-- A store there can meet the prefetch of R68: anywhere but in FLASH or ROM, where D5 says the case cannot occur
(log 18). -/
def Space.meetsPrefetch : Space → Bool
  | .rom | .monitorRom => false
  | .ram | .portData _ | .portDirection _ | .config1 | .config2 | .resetStatus | .io | .unimplemented => true

end Sys2Proof

namespace Sys2Proof.Machine

/-! Registers -/

/-- The 16-bit index register H:X (R11). -/
def State.hx (s : State) : Word := join s.h s.x

/-- `HX <- v` (R11). -/
def State.setHX (s : State) (v : Word) : State := { s with h := hiByte v, x := loByte v }

/-! Interrupt sources and vectors -/

/-- The bit of one source. -/
def SourceFlags.get (f : SourceFlags) : IntSource → Bool
  | .timebase => f.timebase
  | .adc => f.adc
  | .keyboard => f.keyboard
  | .sciTransmit => f.sciTransmit
  | .sciReceive => f.sciReceive
  | .sciError => f.sciError
  | .timOverflow => f.timOverflow
  | .timChannel1 => f.timChannel1
  | .timChannel0 => f.timChannel0
  | .cmireq => f.cmireq
  | .irq1 => f.irq1
  | .spi => f.spi
  | .cgm => f.cgm
  | .other n => f.others.contains n

/-- A rising list of numbers with `n` in it. -/
def withNumber (n : Nat) : List Nat → List Nat
  | [] => [n]
  | m :: ms => if n < m then n :: m :: ms else if n = m then m :: ms else m :: withNumber n ms

/-- The bits with one source's set to `b`. -/
def SourceFlags.set (f : SourceFlags) (q : IntSource) (b : Bool) : SourceFlags :=
  match q with
  | .timebase => { f with timebase := b }
  | .adc => { f with adc := b }
  | .keyboard => { f with keyboard := b }
  | .sciTransmit => { f with sciTransmit := b }
  | .sciReceive => { f with sciReceive := b }
  | .sciError => { f with sciError := b }
  | .timOverflow => { f with timOverflow := b }
  | .timChannel1 => { f with timChannel1 := b }
  | .timChannel0 => { f with timChannel0 := b }
  | .cmireq => { f with cmireq := b }
  | .irq1 => { f with irq1 := b }
  | .spi => { f with spi := b }
  | .cgm => { f with cgm := b }
  | .other n => { f with others := if b then withNumber n f.others else f.others.filter (· != n) }

/-- The SWI vector (R312). -/
def swiVector : Word := 0xFFFC#16

/-- The reset vector (R312). -/
def resetVector : Word := 0xFFFE#16

/-! Devices -/

/-- The output latch of a port (R339). -/
def State.latch (s : State) : Port → Byte
  | .a => s.portA
  | .b => s.portB

/-- The data direction of a port (R339). -/
def State.direction (s : State) : Port → Byte
  | .a => s.ddrA
  | .b => s.ddrB

/-- The levels that the `k`-th bus read finds at the pins of a port: its own where the environment lists the
read, the boundary's otherwise (R339, U11, D4). -/
def Inputs.levels (e : Inputs) (k : Nat) (p : Port) : Byte :=
  match e.pinReads.find? fun r => r.read == k && r.port == p with
  | some r => r.levels
  | none =>
    match p with
    | .a => e.pinsA
    | .b => e.pinsB

/-- A port data register, at the `k`-th bus read, reads its latch on output pins and the pin on input pins
(R339). DESIGN CHOICE: both ports are eight bits wide (D1 shows bits 0 to 4; log 36). -/
def State.portByte (s : State) (k : Nat) (p : Port) : Byte :=
  (s.latch p &&& s.direction p) ||| (s.inputs.levels k p &&& ~~~(s.direction p))

/-- Write a port's output latch. -/
def State.setLatch (s : State) (v : Byte) : Port → State
  | .a => { s with portA := v }
  | .b => { s with portB := v }

/-- Write a port's data direction. -/
def State.setDirection (s : State) (v : Byte) : Port → State
  | .a => { s with ddrA := v }
  | .b => { s with ddrB := v }

/-- The local enable bits after a write of `v` at an I/O address (R318). -/
def SourceFlags.afterWrite (f : SourceFlags) (p : Platform) (a : Word) (v : Byte) : SourceFlags :=
  p.enableBits.foldl
    (fun f e => if e.address = a.toNat then f.set e.source (bitOf v e.bit) else f) f

/-- COP enable after a write to CONFIG1: $01 disables it (R335); what another value does is the
implementation's (log 13). -/
def copAfterConfig1 (v : Byte) : Bool := if v = 0x01#8 then false else Config.copEnabledBy v

/-- The first of the bytes from `b` on, `n` steps at most, that is not in `used`. -/
def firstFree (used : List Byte) : Nat → Byte → Byte
  | 0, b => b
  | n + 1, b => if used.contains b then firstFree used n (b + 1) else b

/-- A byte for each cause of reset, no two alike: by Config.resetStatusCode where it tells the causes apart (R305,
R352). -/
def resetCodes : List (ResetCause × Byte) :=
  [ResetCause.powerOn, .externalPin, .cop, .lvi, .illegalAddress, .illegalOpcode].foldl
    (fun codes cause => (cause, firstFree (codes.map (·.2)) 5 (Config.resetStatusCode cause)) :: codes) []

/-- The cause that a byte of the Reset Status Register names, if it names one (R305). -/
def namedCause (b : Byte) : Option ResetCause :=
  match resetCodes.find? (·.2 == b) with
  | some code => some code.1
  | none => Config.resetStatusName b

/-- What a read of the Reset Status Register gives: the environment's byte where it names the cause, a byte that
does otherwise: an oracle constrained only to name the cause (R305; log 22). -/
def resetStatusRead (draw k : Nat) (cause : ResetCause) : Byte :=
  let b := Config.resetStatusByte draw k cause
  if namedCause b = some cause then b
  else
    match resetCodes.find? (·.1 == cause) with
    | some code => code.2
    | none => b

/-- Record a write to an I/O address (D14). -/
def State.output (s : State) (a : Word) (v : Byte) : State :=
  { s with outputs := (a.toNat, v) :: s.outputs }

/-! The bus -/

/-- `MemRead(a, 1)`, the `k`-th read of the step (R52); no two reads of a step share a number, so that the
environment answers each on its own (U11). A read changes nothing that the machine holds: what it does inside a
device is the environment's (R64). -/
def State.read (s : State) (k : Nat) (a : Word) : Byte :=
  match s.plat.spaceAt a with
  | .ram | .rom | .monitorRom => s.mem.read a.toNat
  | .portData p => s.portByte k p
  | .portDirection p => Config.registerByte s.draws k (s.direction p)
  | .config1 => Config.registerByte s.draws k s.config1
  | .config2 => Config.registerByte s.draws k s.config2
  | .resetStatus => resetStatusRead s.draws k s.resetCause
  | .io => Config.ioByte s.draws k
  | .unimplemented => Config.openByte s.draws k

/-- `MemRead(a, 2)`, the `k`-th and the next read: the high byte at the lower address (R53, R56). -/
def State.read16 (s : State) (k : Nat) (a : Word) : Word := join (s.read k a) (s.read (k + 1) (a + 1))

/-- The address of the COP service write (R337). -/
def copAddress : Word := 0xFFFF#16

/-- What a write does where it lands: at $FFFF it clears the COP counter and no byte changes (R337); RAM takes the
byte; ROM and an address with no memory stay as they are (D6); a device register takes it (R335, R339);
any other I/O register is the environment's, but for the local enable bits (R318, R338). -/
def State.deliver (s : State) (a : Word) (v : Byte) : State :=
  if a = copAddress then ({ s with copCounter := 0 }).output a v
  else
    match s.plat.spaceAt a with
    | .ram => { s with mem := s.mem.write a.toNat v }
    | .rom | .monitorRom | .unimplemented => s
    | .portData p => (s.setLatch v p).output a v
    | .portDirection p => (s.setDirection v p).output a v
    | .config1 => ({ s with config1 := v, copEnabled := copAfterConfig1 v }).output a v
    | .config2 => ({ s with config2 := v }).output a v
    | .resetStatus => s.output a v
    | .io => ({ s with enable := s.enable.afterWrite s.plat a v }).output a v

/-- The stores of the instruction so far, with one to `a` (R68). -/
def State.recorded (s : State) (a : Word) : List Word :=
  if (s.plat.spaceAt a).meetsPrefetch then a :: s.stored else s.stored

/-- `MemWrite(a, 1, v)` (R54): what the write does where it lands, and its record (R68). -/
def State.write (s : State) (a : Word) (v : Byte) : State :=
  { s.deliver a v with stored := s.recorded a }

/-- `MemWrite(a, 2, v)`: the high byte at `a` first, then the low byte at `a + 1` (R55). -/
def State.write16 (s : State) (a : Word) (v : Word) : State :=
  (s.write a (hiByte v)).write (a + 1) (loByte v)

/-! The stack -/

/-- `Push8(v)` (R14). -/
def State.push (s : State) (v : Byte) : State :=
  let t := s.write s.sp v
  { t with sp := s.sp - 1 }

/-- `SP <- SP + 1`, the first half of `Pull8()` (R14). -/
def State.popped (s : State) : State := { s with sp := s.sp + 1 }

/-- The byte `Pull8()` returns as the `k`-th read (R14). -/
def State.top (s : State) (k : Nat) : Byte := s.read k (s.sp + 1)

/-- Push a return address: PCL first, at the higher address (R57, R268). -/
def State.pushPC (s : State) : State := (s.push (loByte s.pc)).push (hiByte s.pc)

/-! Exceptions -/

/-- The five pushes of an interrupt entry: PCL, PCH, X, A, CCR (R321, R322); H is not stacked (R323). -/
def State.stack (s : State) : State := ((s.pushPC.push s.x).push s.a).push s.ccr.toByte

/-- Taking an interrupt, SWI included (R321, R271): stack, set I, load PC from the vector. -/
def State.takeInterrupt (s : State) (vector : Word) : State :=
  let t := s.stack
  { t with ccr := { t.ccr with i := true }, pc := t.read16 0 vector }

/-- Return from interrupt (R272, R324): pull CCR, A, X, PCH, PCL. -/
def State.returnFromInterrupt (s : State) : State :=
  { s with
    ccr := CCR.ofByte (s.read 0 (s.sp + 1))
    a := s.read 1 (s.sp + 2)
    x := s.read 2 (s.sp + 3)
    pc := join (s.read 3 (s.sp + 4)) (s.read 4 (s.sp + 5))
    sp := s.sp + 5 }

/-- Memory after a reset: unchanged, but for RAM after power-on, which holds no known value (R309, D11). -/
def State.memAfterReset (s : State) : ResetCause → Memory
  | .powerOn =>
    Memory.writeAll s.plat.isRam (Config.powerOnRam s.draws) (s.mem.filter fun c => !s.plat.isRam c.1)
  | .externalPin | .cop | .lvi | .illegalAddress | .illegalOpcode => s.mem

/-- The actions of the reset sequence but for the vector fetch (R350). What the list does not name holds no
known value afterwards (R42, D8): free values; the COP counter restarts (log 7). -/
def State.resetActions (s : State) (cause : ResetCause) : State :=
  { s with
    a := Config.resetByte s.draws 0
    x := Config.resetByte s.draws 1
    h := Config.resetByte s.draws 2
    sp := 0x00FF#16
    ccr := ⟨Config.resetFlag s.draws 0, Config.resetFlag s.draws 1, true, Config.resetFlag s.draws 2,
      Config.resetFlag s.draws 3, Config.resetFlag s.draws 4⟩
    power := .running
    cliWindow := false
    stored := []
    irqLatch := false
    enable := SourceFlags.none
    portA := Config.resetByte s.draws 3
    portB := Config.resetByte s.draws 4
    ddrA := 0x00#8
    ddrB := 0x00#8
    config1 := Config.resetByte s.draws 5
    config2 := Config.resetByte s.draws 6
    copEnabled := s.plat.copOnAtReset
    copCounter := 0
    resetCause := cause
    mem := s.memAfterReset cause }

/-- `DoReset(cause)` (R350): nothing is stacked; PC from the reset vector. -/
def State.doReset (s : State) (cause : ResetCause) : State :=
  let t := s.resetActions cause
  { t with pc := t.read16 0 resetVector }

end Sys2Proof.Machine
end

