-- ==== Sys2Proof/Machine/Operands.lean ====
section
/-! DEFINITION. Effective addresses and operands (R110 to R134). The operand bytes are part of the decoded
instruction, so `ea` is a function of the operand and the registers alone. All sums are modulo 2^16
(R111). -/

namespace Sys2Proof

/-- The number of the read that fetches the last operand byte where it follows the operand of DBNZ: 8 is the first
byte of the instruction (R80, R266). -/
def MemOperand.offsetRead : MemOperand → Nat
  | .ix => 9
  | .dir _ | .ix1 _ => 10
  | .sp1 _ | .ext _ | .ix2 _ => 11
  | .sp2 _ => 12

end Sys2Proof

namespace Sys2Proof.Machine

/-- `EA(mode)` (R115, R116, R119 to R123, R134). -/
def State.ea (s : State) : MemOperand → Word
  | .dir dd => zext16 dd
  | .ext hhll => hhll
  | .ix => s.hx
  | .ix1 ff => s.hx + zext16 ff
  | .ix2 eeff => s.hx + eeff
  | .sp1 ff => s.sp + zext16 ff
  | .sp2 eeff => s.sp + eeff

/-- `Operand(mode)`, the first read of the instruction (R112, R134). -/
def State.operand (s : State) : Src → Byte
  | .imm ii => ii
  | .mem m => s.read 0 (s.ea m)

/-- The last byte of the instruction, `rr` when its bytes were read, as it is fetched after the store that made `t`
of `s`: what that store left there (R17, R65, D4; log 37). -/
def State.fetchedAfter (s t : State) (k : Nat) (rr : Byte) : Byte :=
  let before := s.read k (s.pc - 1)
  let after := t.read k (s.pc - 1)
  if after = before then rr else after

/-- The 16-bit operand of LDHX and CPHX (R113, R117, R142, R185). -/
def State.operand16 (s : State) : Src16 → Word
  | .imm iijj => iijj
  | .dir dd => s.read16 0 (zext16 dd)

/-- `EA(mode)` of CBEQ's operand (R122, R124, R125, R265). -/
def State.cmpEa (s : State) : CmpOperand → Word
  | .dir dd => zext16 dd
  | .sp1 ff => s.sp + zext16 ff
  | .ixInc => s.hx
  | .ix1Inc ff => s.hx + zext16 ff

/-- The post-increment of H:X, which the forms IX+ and IX1+ perform (R124, R125). -/
def State.postIncrement (s : State) : CmpOperand → State
  | .dir _ | .sp1 _ => s
  | .ixInc | .ix1Inc _ => s.setHX (s.hx + 1)

/-- The byte MOV moves, read from the source (R129 to R133). -/
def State.moveByte (s : State) : Move → Byte
  | .dirDir src _ => s.read 0 (zext16 src)
  | .dirIxInc src => s.read 0 (zext16 src)
  | .immDir ii _ => ii
  | .ixIncDir _ => s.read 0 s.hx

/-- The address MOV writes to (R129 to R133). -/
def State.moveEa (s : State) : Move → Word
  | .dirDir _ dst => zext16 dst
  | .dirIxInc _ => s.hx
  | .immDir _ dst => zext16 dst
  | .ixIncDir dst => zext16 dst

/-- The post-increment of H:X, which the X+ forms of MOV perform (R129, R132, R133). -/
def State.moveIncrement (s : State) : Move → State
  | .dirDir _ _ | .immDir _ _ => s
  | .dirIxInc _ | .ixIncDir _ => s.setHX (s.hx + 1)

end Sys2Proof.Machine
end

