-- ==== Sys2Proof/Machine/Modify.lean ====
section
/-! DEFINITION. The read-modify-write shape that INC, DEC, COM, NEG, the shifts and the rotates share: one
read, the result, one write of the same place, the flags from the operand (R62, R179, R227). -/

namespace Sys2Proof.Machine

/-- On a byte of memory: read once, then write once (R62). -/
def State.modify (s : State) (m : MemOperand) (result : Byte → Byte) (flags : CCR → Byte → CCR) : State :=
  let v := s.read 0 (s.ea m)
  { s.write (s.ea m) (result v) with ccr := flags s.ccr v }

/-- On A. -/
def State.modifyA (s : State) (result : Byte → Byte) (flags : CCR → Byte → CCR) : State :=
  { s with a := result s.a, ccr := flags s.ccr s.a }

/-- On X; H stays (R22, R363). -/
def State.modifyX (s : State) (result : Byte → Byte) (flags : CCR → Byte → CCR) : State :=
  { s with x := result s.x, ccr := flags s.ccr s.x }

end Sys2Proof.Machine
end

