-- ==== Sys2Proof/Machine/Arithmetic.lean ====
section
/-! DEFINITION. Arithmetic (R173 to R189). PC holds the address of the next instruction when a
meaning runs (R13): the step has moved it past the operand bytes. -/

namespace Sys2Proof.Machine

/-- ADD: `A <- (A) + (M)` (R173). -/
def execAdd (src : Src) (s : State) : Result :=
  let m := s.operand src
  .next { s with a := addResult s.a m false, ccr := s.ccr.addFlags s.a m false }

/-- ADC: `A <- (A) + (M) + (C)` (R174). -/
def execAdc (src : Src) (s : State) : Result :=
  let m := s.operand src
  .next { s with a := addResult s.a m s.ccr.c, ccr := s.ccr.addFlags s.a m s.ccr.c }

/-- SUB: `A <- (A) - (M)` (R175). -/
def execSub (src : Src) (s : State) : Result :=
  let m := s.operand src
  .next { s with a := subResult s.a m false, ccr := s.ccr.subFlags s.a m false }

/-- SBC: `A <- (A) - (M) - (C)` (R176). -/
def execSbc (src : Src) (s : State) : Result :=
  let m := s.operand src
  .next { s with a := subResult s.a m s.ccr.c, ccr := s.ccr.subFlags s.a m s.ccr.c }

/-- CMP: `(A) - (M)`; A stays (R183). -/
def execCmp (src : Src) (s : State) : Result :=
  .next { s with ccr := s.ccr.subFlags s.a (s.operand src) false }

/-- CPX: `(X) - (M)`; X stays, H takes no part (R184). -/
def execCpx (src : Src) (s : State) : Result :=
  .next { s with ccr := s.ccr.subFlags s.x (s.operand src) false }

/-- CPHX: `(H:X) - (M:M+1)`; H:X stays (R185). -/
def execCphx (src : Src16) (s : State) : Result :=
  .next { s with ccr := s.ccr.sub16Flags s.hx (s.operand16 src) }

/-- MUL: `X:A <- (X) x (A)`, unsigned; Hf and C are cleared (R177). -/
def execMul (s : State) : Result :=
  let p := s.x.setWidth 16 * s.a.setWidth 16
  .next { s with x := hiByte p, a := loByte p, ccr := { s.ccr with hf := false, c := false } }

/-- DIV: `A <- (H:A) / (X); H <- Remainder`, unsigned (R178). On a zero divisor or a quotient over 255 C is set
and A, H, Z are free values (U2, log 19). -/
def execDiv (s : State) : Result :=
  let d := (join s.h s.a).toNat
  let n := s.x.toNat
  if n = 0 ∨ d / n > 255 then
    .next { s with
      a := Config.divA s.draws, h := Config.divH s.draws
      ccr := { s.ccr with c := true, z := Config.divZ s.draws } }
  else
    .next { s with
      a := BitVec.ofNat 8 (d / n), h := BitVec.ofNat 8 (d % n)
      ccr := { s.ccr with c := false, z := decide (d / n = 0) } }

/-- INC: increment a byte of memory (R179). -/
def execInc (m : MemOperand) (s : State) : Result :=
  .next (s.modify m (· + 1#8) CCR.incFlags)

/-- INCA: increment A (R179). -/
def execInca (s : State) : Result :=
  .next (s.modifyA (· + 1#8) CCR.incFlags)

/-- INCX: increment X; H stays (R179). -/
def execIncx (s : State) : Result :=
  .next (s.modifyX (· + 1#8) CCR.incFlags)

/-- DEC: decrement a byte of memory (R180). -/
def execDec (m : MemOperand) (s : State) : Result :=
  .next (s.modify m (· - 1#8) CCR.decFlags)

/-- DECA: decrement A (R180). -/
def execDeca (s : State) : Result :=
  .next (s.modifyA (· - 1#8) CCR.decFlags)

/-- DECX: decrement X; H stays (R180). -/
def execDecx (s : State) : Result :=
  .next (s.modifyX (· - 1#8) CCR.decFlags)

/-- COM: one's complement of a byte of memory (R181). -/
def execCom (m : MemOperand) (s : State) : Result :=
  .next (s.modify m comResult CCR.comFlags)

/-- COMA: one's complement of A (R181). -/
def execComa (s : State) : Result :=
  .next (s.modifyA comResult CCR.comFlags)

/-- COMX: one's complement of X; H stays (R181). -/
def execComx (s : State) : Result :=
  .next (s.modifyX comResult CCR.comFlags)

/-- NEG: two's complement of a byte of memory (R182). -/
def execNeg (m : MemOperand) (s : State) : Result :=
  .next (s.modify m negResult CCR.negFlags)

/-- NEGA: two's complement of A (R182). -/
def execNega (s : State) : Result :=
  .next (s.modifyA negResult CCR.negFlags)

/-- NEGX: two's complement of X; H stays (R182). -/
def execNegx (s : State) : Result :=
  .next (s.modifyX negResult CCR.negFlags)

/-- CLR: `M <- $00`, one write and no read (R186, R62). -/
def execClr (m : MemOperand) (s : State) : Result :=
  .next { s.write (s.ea m) 0x00#8 with ccr := s.ccr.clrFlags }

/-- CLRA: `A <- $00` (R186). -/
def execClra (s : State) : Result :=
  .next { s with a := 0x00#8, ccr := s.ccr.clrFlags }

/-- CLRX: `X <- $00` (R186). -/
def execClrx (s : State) : Result :=
  .next { s with x := 0x00#8, ccr := s.ccr.clrFlags }

/-- CLRH: `H <- $00` (R186). -/
def execClrh (s : State) : Result :=
  .next { s with h := 0x00#8, ccr := s.ccr.clrFlags }

/-- TST: `(M) - $00`; nothing but flags is written (R187). -/
def execTst (m : MemOperand) (s : State) : Result :=
  .next { s with ccr := s.ccr.move8 (s.read 0 (s.ea m)) }

/-- TSTA: `(A) - $00` (R187). -/
def execTsta (s : State) : Result :=
  .next { s with ccr := s.ccr.move8 s.a }

/-- TSTX: `(X) - $00` (R187). -/
def execTstx (s : State) : Result :=
  .next { s with ccr := s.ccr.move8 s.x }

/-- AIS: add the signed immediate to SP; no flag is written (R188). -/
def execAis (ii : Byte) (s : State) : Result :=
  .next { s with sp := s.sp + sext16 ii }

/-- AIX: add the signed immediate to H:X, the carry reaching H; no flag is written (R189). -/
def execAix (ii : Byte) (s : State) : Result :=
  .next (s.setHX (s.hx + sext16 ii))

end Sys2Proof.Machine
end

