-- ==== Sys2Proof/Machine/Control.lean ====
section
/-! DEFINITION. Branches, loops, jumps, subroutines, SWI and RTI (R240 to R272). PC holds the address of the next instruction when a
meaning runs (R13): the step has moved it past the operand bytes. -/

namespace Sys2Proof.Machine

/-- `Branch(cond)`: PC already holds the address of the next instruction (R17, R126). -/
def State.branch (s : State) (rr : Byte) (cond : Bool) : State :=
  if cond then { s with pc := s.pc + sext16 rr } else s

/-- BRA: branch always (R261). -/
def execBra (rr : Byte) (s : State) : Result :=
  .next (s.branch rr true)

/-- BRN: branch never: the offset byte is ignored (R262). -/
def execBrn (rr : Byte) (s : State) : Result :=
  .next (s.branch rr false)

/-- BCC: branch if C = 0; the same as BHS (R241, R248). -/
def execBcc (rr : Byte) (s : State) : Result :=
  .next (s.branch rr (!s.ccr.c))

/-- BCS: branch if C = 1; the same as BLO (R242, R249). -/
def execBcs (rr : Byte) (s : State) : Result :=
  .next (s.branch rr s.ccr.c)

/-- BNE: branch if Z = 0 (R244). -/
def execBne (rr : Byte) (s : State) : Result :=
  .next (s.branch rr (!s.ccr.z))

/-- BEQ: branch if Z = 1 (R243). -/
def execBeq (rr : Byte) (s : State) : Result :=
  .next (s.branch rr s.ccr.z)

/-- BHCC: branch if Hf = 0 (R245). -/
def execBhcc (rr : Byte) (s : State) : Result :=
  .next (s.branch rr (!s.ccr.hf))

/-- BHCS: branch if Hf = 1 (R246). -/
def execBhcs (rr : Byte) (s : State) : Result :=
  .next (s.branch rr s.ccr.hf)

/-- BHI: branch if C | Z = 0 (R247). -/
def execBhi (rr : Byte) (s : State) : Result :=
  .next (s.branch rr (!(s.ccr.c || s.ccr.z)))

/-- BLS: branch if C | Z = 1 (R250). -/
def execBls (rr : Byte) (s : State) : Result :=
  .next (s.branch rr (s.ccr.c || s.ccr.z))

/-- BPL: branch if N = 0 (R251). -/
def execBpl (rr : Byte) (s : State) : Result :=
  .next (s.branch rr (!s.ccr.n))

/-- BMI: branch if N = 1 (R252). -/
def execBmi (rr : Byte) (s : State) : Result :=
  .next (s.branch rr s.ccr.n)

/-- BMC: branch if I = 0 (R253). -/
def execBmc (rr : Byte) (s : State) : Result :=
  .next (s.branch rr (!s.ccr.i))

/-- BMS: branch if I = 1 (R254). -/
def execBms (rr : Byte) (s : State) : Result :=
  .next (s.branch rr s.ccr.i)

/-- BIH: branch if the IRQ pin is high; neither the latch nor I matters (R255). -/
def execBih (rr : Byte) (s : State) : Result :=
  .next (s.branch rr s.inputs.irqPinLater)

/-- BIL: branch if the IRQ pin is low (R256). -/
def execBil (rr : Byte) (s : State) : Result :=
  .next (s.branch rr (!s.inputs.irqPinLater))

/-- BGE: branch if N ^ V = 0 (R257). -/
def execBge (rr : Byte) (s : State) : Result :=
  .next (s.branch rr (!(s.ccr.n ^^ s.ccr.v)))

/-- BLT: branch if N ^ V = 1 (R260). -/
def execBlt (rr : Byte) (s : State) : Result :=
  .next (s.branch rr (s.ccr.n ^^ s.ccr.v))

/-- BGT: branch if Z | (N ^ V) = 0 (R258). -/
def execBgt (rr : Byte) (s : State) : Result :=
  .next (s.branch rr (!(s.ccr.z || (s.ccr.n ^^ s.ccr.v))))

/-- BLE: branch if Z | (N ^ V) = 1 (R259). -/
def execBle (rr : Byte) (s : State) : Result :=
  .next (s.branch rr (s.ccr.z || (s.ccr.n ^^ s.ccr.v)))

/-- BRCLR: C takes the bit; branch if it is clear (R263). -/
def execBrclr (n : BitVec 3) (dd rr : Byte) (s : State) : Result :=
  let b := bitOf (s.read 0 (zext16 dd)) n
  .next (({ s with ccr := { s.ccr with c := b } } : State).branch rr (!b))

/-- BRSET: C takes the bit; branch if it is set (R264). -/
def execBrset (n : BitVec 3) (dd rr : Byte) (s : State) : Result :=
  let b := bitOf (s.read 0 (zext16 dd)) n
  .next (({ s with ccr := { s.ccr with c := b } } : State).branch rr b)

/-- CBEQ: branch if A equals the operand; the post-increment happens whichever way it goes; no flag is written
(R265). -/
def execCbeq (m : CmpOperand) (rr : Byte) (s : State) : Result :=
  let v := s.read 0 (s.cmpEa m)
  .next ((s.postIncrement m).branch rr (s.a == v))

/-- CBEQA: branch if A equals the immediate (R265). -/
def execCbeqa (ii rr : Byte) (s : State) : Result :=
  .next (s.branch rr (s.a == ii))

/-- CBEQX: branch if X equals the immediate (R265). -/
def execCbeqx (ii rr : Byte) (s : State) : Result :=
  .next (s.branch rr (s.x == ii))

/-- DBNZ: decrement the byte, branch if the result is not 0; no flag is written (R266). The offset is fetched after
the store (R17, D4, D9; log 37). -/
def execDbnz (m : MemOperand) (rr : Byte) (s : State) : Result :=
  let r := s.read 0 (s.ea m) - 1#8
  let t := s.write (s.ea m) r
  .next (t.branch (s.fetchedAfter t m.offsetRead rr) (r != 0#8))

/-- DBNZA: decrement A, branch if the result is not 0; no flag is written (R266). -/
def execDbnza (rr : Byte) (s : State) : Result :=
  let r := s.a - 1#8
  .next (({ s with a := r } : State).branch rr (r != 0#8))

/-- DBNZX: decrement X, branch if the result is not 0; no flag is written (R266). -/
def execDbnzx (rr : Byte) (s : State) : Result :=
  let r := s.x - 1#8
  .next (({ s with x := r } : State).branch rr (r != 0#8))

/-- JMP: `PC <- EA`; memory at the target is not read (R267). -/
def execJmp (m : MemOperand) (s : State) : Result :=
  .next { s with pc := s.ea m }

/-- JSR: push the return address, then `PC <- EA`, the address formed before the pushes (R268). -/
def execJsr (m : MemOperand) (s : State) : Result :=
  .next { s.pushPC with pc := s.ea m }

/-- BSR: push the return address, then branch (R269). -/
def execBsr (rr : Byte) (s : State) : Result :=
  .next (s.pushPC.branch rr true)

/-- RTS: pull PCH, then PCL (R270). -/
def execRts (s : State) : Result :=
  .next { s with pc := join (s.top 0) (s.popped.top 1), sp := s.sp + 2 }

/-- SWI: the interrupt entry through $FFFC, whatever I is (R271). -/
def execSwi (s : State) : Result :=
  .next (s.takeInterrupt swiVector)

/-- RTI: return from interrupt (R272, R324). -/
def execRti (s : State) : Result :=
  .next s.returnFromInterrupt

end Sys2Proof.Machine
end

