-- ==== Sys2Proof/Machine/DataMovement.lean ====
section
/-! DEFINITION. Data movement: loads, stores, stack, transfers and MOV (R140 to R158). PC holds the address of the next instruction when a
meaning runs (R13): the step has moved it past the operand bytes. -/

namespace Sys2Proof.Machine

/-- LDA: `A <- (M)` (R140). -/
def execLda (src : Src) (s : State) : Result :=
  let m := s.operand src
  .next { s with a := m, ccr := s.ccr.move8 m }

/-- LDX: `X <- (M)`; H stays, the address is formed from the old H:X (R141). -/
def execLdx (src : Src) (s : State) : Result :=
  let m := s.operand src
  .next { s with x := m, ccr := s.ccr.move8 m }

/-- LDHX: `H:X <- (M:M+1)` (R142). -/
def execLdhx (src : Src16) (s : State) : Result :=
  let v := s.operand16 src
  .next { s.setHX v with ccr := s.ccr.move16 v }

/-- STA: `M <- (A)` (R143). -/
def execSta (m : MemOperand) (s : State) : Result :=
  .next { s.write (s.ea m) s.a with ccr := s.ccr.move8 s.a }

/-- STX: `M <- (X)` (R144). -/
def execStx (m : MemOperand) (s : State) : Result :=
  .next { s.write (s.ea m) s.x with ccr := s.ccr.move8 s.x }

/-- STHX: `M:M+1 <- (H:X)` (R145). -/
def execSthx (dd : Byte) (s : State) : Result :=
  .next { s.write16 (zext16 dd) s.hx with ccr := s.ccr.move16 s.hx }

/-- PSHA: push A; no flag is written (R146). -/
def execPsha (s : State) : Result :=
  .next (s.push s.a)

/-- PSHH: push H; no flag is written (R147). -/
def execPshh (s : State) : Result :=
  .next (s.push s.h)

/-- PSHX: push X; no flag is written (R148). -/
def execPshx (s : State) : Result :=
  .next (s.push s.x)

/-- PULA: pull A; no flag is written (R149). -/
def execPula (s : State) : Result :=
  .next { s.popped with a := s.top 0 }

/-- PULH: pull H; no flag is written (R150). -/
def execPulh (s : State) : Result :=
  .next { s.popped with h := s.top 0 }

/-- PULX: pull X; no flag is written (R151). -/
def execPulx (s : State) : Result :=
  .next { s.popped with x := s.top 0 }

/-- TAP: `CCR <- (A)` (R152). Clearing I opens the CLI window (R320). -/
def execTap (s : State) : Result :=
  let f := CCR.ofByte s.a
  .next { s with ccr := f, cliWindow := s.ccr.i && !f.i }

/-- TPA: `A <- (CCR)` (R153). -/
def execTpa (s : State) : Result :=
  .next { s with a := s.ccr.toByte }

/-- TAX: `X <- (A)`; H stays (R154). -/
def execTax (s : State) : Result :=
  .next { s with x := s.a }

/-- TXA: `A <- (X)` (R155). -/
def execTxa (s : State) : Result :=
  .next { s with a := s.x }

/-- TXS: `SP <- (H:X) - $0001` (R156). -/
def execTxs (s : State) : Result :=
  .next { s with sp := s.hx - 1 }

/-- TSX: `H:X <- (SP) + $0001` (R157). -/
def execTsx (s : State) : Result :=
  .next (s.setHX (s.sp + 1))

/-- MOV: read the source, write the destination, then the post-increment of the X+ forms; the flags from the
byte moved (R158, R129). -/
def execMov (m : Move) (s : State) : Result :=
  let v := s.moveByte m
  .next { (s.write (s.moveEa m) v).moveIncrement m with ccr := s.ccr.move8 v }

end Sys2Proof.Machine
end

