-- ==== Sys2Proof/Machine/Logic.lean ====
section
/-! DEFINITION. Logic and bit manipulation (R200 to R209). PC holds the address of the next instruction when a
meaning runs (R13): the step has moved it past the operand bytes. -/

namespace Sys2Proof.Machine

/-- AND: `A <- (A) & (M)` (R200). -/
def execAnd (src : Src) (s : State) : Result :=
  let r := s.a &&& s.operand src
  .next { s with a := r, ccr := s.ccr.move8 r }

/-- ORA: `A <- (A) | (M)` (R201). -/
def execOra (src : Src) (s : State) : Result :=
  let r := s.a ||| s.operand src
  .next { s with a := r, ccr := s.ccr.move8 r }

/-- EOR: `A <- (A) xor (M)` (R202). -/
def execEor (src : Src) (s : State) : Result :=
  let r := s.a ^^^ s.operand src
  .next { s with a := r, ccr := s.ccr.move8 r }

/-- BIT: `(A) & (M)`; neither A nor memory changes (R203). -/
def execBit (src : Src) (s : State) : Result :=
  .next { s with ccr := s.ccr.move8 (s.a &&& s.operand src) }

/-- BCLR: `Mn <- 0`, a read-modify-write of the byte; no flag is written (R204). -/
def execBclr (n : BitVec 3) (dd : Byte) (s : State) : Result :=
  let v := s.read 0 (zext16 dd)
  .next (s.write (zext16 dd) (v &&& ~~~(bitMask n)))

/-- BSET: `Mn <- 1`, a read-modify-write of the byte; no flag is written (R205). -/
def execBset (n : BitVec 3) (dd : Byte) (s : State) : Result :=
  let v := s.read 0 (zext16 dd)
  .next (s.write (zext16 dd) (v ||| bitMask n))

/-- CLC: `C <- 0` (R206). -/
def execClc (s : State) : Result :=
  .next { s with ccr := { s.ccr with c := false } }

/-- SEC: `C <- 1` (R207). -/
def execSec (s : State) : Result :=
  .next { s with ccr := { s.ccr with c := true } }

/-- CLI: `I <- 0` (R208). Changing I from 1 opens the CLI window (R320). -/
def execCli (s : State) : Result :=
  .next { s with ccr := { s.ccr with i := false }, cliWindow := s.ccr.i }

/-- SEI: `I <- 1` (R209). -/
def execSei (s : State) : Result :=
  .next { s with ccr := { s.ccr with i := true } }

end Sys2Proof.Machine
end

