-- ==== Sys2Proof/Machine/Shifts.lean ====
section
/-! DEFINITION. Shifts and rotates (R220 to R227). PC holds the address of the next instruction when a
meaning runs (R13): the step has moved it past the operand bytes. -/

namespace Sys2Proof.Machine

/-- LSL: logical shift left, the same as ASL, of a byte of memory (R222, R220). -/
def execLsl (m : MemOperand) (s : State) : Result :=
  .next (s.modify m lslResult (fun f v => f.leftFlags v (lslResult v)))

/-- LSLA: logical shift left, the same as ASL, of A (R222, R220). -/
def execLsla (s : State) : Result :=
  .next (s.modifyA lslResult (fun f v => f.leftFlags v (lslResult v)))

/-- LSLX: logical shift left, the same as ASL, of X; H stays (R222, R220). -/
def execLslx (s : State) : Result :=
  .next (s.modifyX lslResult (fun f v => f.leftFlags v (lslResult v)))

/-- LSR: logical shift right of a byte of memory (R223). -/
def execLsr (m : MemOperand) (s : State) : Result :=
  .next (s.modify m lsrResult (fun f v => f.rightFlags v (lsrResult v)))

/-- LSRA: logical shift right of A (R223). -/
def execLsra (s : State) : Result :=
  .next (s.modifyA lsrResult (fun f v => f.rightFlags v (lsrResult v)))

/-- LSRX: logical shift right of X; H stays (R223). -/
def execLsrx (s : State) : Result :=
  .next (s.modifyX lsrResult (fun f v => f.rightFlags v (lsrResult v)))

/-- ASR: arithmetic shift right of a byte of memory (R221). -/
def execAsr (m : MemOperand) (s : State) : Result :=
  .next (s.modify m asrResult (fun f v => f.rightFlags v (asrResult v)))

/-- ASRA: arithmetic shift right of A (R221). -/
def execAsra (s : State) : Result :=
  .next (s.modifyA asrResult (fun f v => f.rightFlags v (asrResult v)))

/-- ASRX: arithmetic shift right of X; H stays (R221). -/
def execAsrx (s : State) : Result :=
  .next (s.modifyX asrResult (fun f v => f.rightFlags v (asrResult v)))

/-- ROL: rotate left through C of a byte of memory (R224). -/
def execRol (m : MemOperand) (s : State) : Result :=
  .next (s.modify m (rolResult · s.ccr.c) (fun f v => f.leftFlags v (rolResult v f.c)))

/-- ROLA: rotate left through C of A (R224). -/
def execRola (s : State) : Result :=
  .next (s.modifyA (rolResult · s.ccr.c) (fun f v => f.leftFlags v (rolResult v f.c)))

/-- ROLX: rotate left through C of X; H stays (R224). -/
def execRolx (s : State) : Result :=
  .next (s.modifyX (rolResult · s.ccr.c) (fun f v => f.leftFlags v (rolResult v f.c)))

/-- ROR: rotate right through C of a byte of memory (R225). -/
def execRor (m : MemOperand) (s : State) : Result :=
  .next (s.modify m (rorResult · s.ccr.c) (fun f v => f.rightFlags v (rorResult v f.c)))

/-- RORA: rotate right through C of A (R225). -/
def execRora (s : State) : Result :=
  .next (s.modifyA (rorResult · s.ccr.c) (fun f v => f.rightFlags v (rorResult v f.c)))

/-- RORX: rotate right through C of X; H stays (R225). -/
def execRorx (s : State) : Result :=
  .next (s.modifyX (rorResult · s.ccr.c) (fun f v => f.rightFlags v (rorResult v f.c)))

end Sys2Proof.Machine
end

