-- ==== Sys2Proof/Machine/Special.lean ====
section
/-! DEFINITION. BCD and special instructions (R290 to R295). PC holds the address of the next instruction when a
meaning runs (R13): the step has moved it past the operand bytes. -/

namespace Sys2Proof.Machine

/-- DAA: add the correction of the row that C, Hf and A select; outside the table A, C, N and Z are free
values, and V is one in every case (R290, U3, U4, log 20). -/
def execDaa (s : State) : Result :=
  match daaRow s.ccr s.a with
  | some row =>
    let r := s.a + row.add
    .next { s with a := r, ccr := { s.ccr.nz8 r with c := row.cAfter, v := Config.daaV s.draws } }
  | none =>
    .next { s with
      a := Config.daaA s.draws
      ccr := { s.ccr with
        c := Config.daaC s.draws, n := Config.daaN s.draws, z := Config.daaZ s.draws
        v := Config.daaV s.draws } }

/-- NSA: `A <- (A[3:0] : A[7:4])` (R291). -/
def execNsa (s : State) : Result :=
  .next { s with a := s.a.extractLsb' 0 4 ++ s.a.extractLsb' 4 4 }

/-- RSP: `SPL <- $FF`; SPH stays (R292). -/
def execRsp (s : State) : Result :=
  .next { s with sp := join (hiByte s.sp) 0xFF#8 }

/-- NOP: nothing but the opcode fetch (R293). -/
def execNop (s : State) : Result :=
  .next s

/-- STOP: `I <- 0`, and the stopped state (R294). -/
def execStop (s : State) : Result :=
  .next { s with ccr := { s.ccr with i := false }, power := .stopped }

/-- WAIT: `I <- 0`, and the waiting state (R295). -/
def execWait (s : State) : Result :=
  .next { s with ccr := { s.ccr with i := false }, power := .waiting }

end Sys2Proof.Machine
end

