-- ==== Sys2Proof/Machine/Dispatch.lean ====
section
/-! DEFINITION. One arm per instruction, each a direct call of its meaning. -/

namespace Sys2Proof.Machine

/-- What an instruction does, PC already past its bytes (R13). -/
def exec (i : Instr) (s : State) : Host.Outcome State Fault Refusal :=
  match i with
  | .brset n dd rr => Sys2Proof.Machine.execBrset n dd rr s
  | .brclr n dd rr => Sys2Proof.Machine.execBrclr n dd rr s
  | .bset n dd => Sys2Proof.Machine.execBset n dd s
  | .bclr n dd => Sys2Proof.Machine.execBclr n dd s
  | .bra rr => Sys2Proof.Machine.execBra rr s
  | .brn rr => Sys2Proof.Machine.execBrn rr s
  | .bhi rr => Sys2Proof.Machine.execBhi rr s
  | .bls rr => Sys2Proof.Machine.execBls rr s
  | .bcc rr => Sys2Proof.Machine.execBcc rr s
  | .bcs rr => Sys2Proof.Machine.execBcs rr s
  | .bne rr => Sys2Proof.Machine.execBne rr s
  | .beq rr => Sys2Proof.Machine.execBeq rr s
  | .bhcc rr => Sys2Proof.Machine.execBhcc rr s
  | .bhcs rr => Sys2Proof.Machine.execBhcs rr s
  | .bpl rr => Sys2Proof.Machine.execBpl rr s
  | .bmi rr => Sys2Proof.Machine.execBmi rr s
  | .bmc rr => Sys2Proof.Machine.execBmc rr s
  | .bms rr => Sys2Proof.Machine.execBms rr s
  | .bil rr => Sys2Proof.Machine.execBil rr s
  | .bih rr => Sys2Proof.Machine.execBih rr s
  | .bge rr => Sys2Proof.Machine.execBge rr s
  | .blt rr => Sys2Proof.Machine.execBlt rr s
  | .bgt rr => Sys2Proof.Machine.execBgt rr s
  | .ble rr => Sys2Proof.Machine.execBle rr s
  | .neg m => Sys2Proof.Machine.execNeg m s
  | .nega => Sys2Proof.Machine.execNega s
  | .negx => Sys2Proof.Machine.execNegx s
  | .com m => Sys2Proof.Machine.execCom m s
  | .coma => Sys2Proof.Machine.execComa s
  | .comx => Sys2Proof.Machine.execComx s
  | .lsr m => Sys2Proof.Machine.execLsr m s
  | .lsra => Sys2Proof.Machine.execLsra s
  | .lsrx => Sys2Proof.Machine.execLsrx s
  | .ror m => Sys2Proof.Machine.execRor m s
  | .rora => Sys2Proof.Machine.execRora s
  | .rorx => Sys2Proof.Machine.execRorx s
  | .asr m => Sys2Proof.Machine.execAsr m s
  | .asra => Sys2Proof.Machine.execAsra s
  | .asrx => Sys2Proof.Machine.execAsrx s
  | .lsl m => Sys2Proof.Machine.execLsl m s
  | .lsla => Sys2Proof.Machine.execLsla s
  | .lslx => Sys2Proof.Machine.execLslx s
  | .rol m => Sys2Proof.Machine.execRol m s
  | .rola => Sys2Proof.Machine.execRola s
  | .rolx => Sys2Proof.Machine.execRolx s
  | .dec m => Sys2Proof.Machine.execDec m s
  | .deca => Sys2Proof.Machine.execDeca s
  | .decx => Sys2Proof.Machine.execDecx s
  | .inc m => Sys2Proof.Machine.execInc m s
  | .inca => Sys2Proof.Machine.execInca s
  | .incx => Sys2Proof.Machine.execIncx s
  | .tst m => Sys2Proof.Machine.execTst m s
  | .tsta => Sys2Proof.Machine.execTsta s
  | .tstx => Sys2Proof.Machine.execTstx s
  | .clr m => Sys2Proof.Machine.execClr m s
  | .clra => Sys2Proof.Machine.execClra s
  | .clrx => Sys2Proof.Machine.execClrx s
  | .cbeq m rr => Sys2Proof.Machine.execCbeq m rr s
  | .cbeqa ii rr => Sys2Proof.Machine.execCbeqa ii rr s
  | .cbeqx ii rr => Sys2Proof.Machine.execCbeqx ii rr s
  | .dbnz m rr => Sys2Proof.Machine.execDbnz m rr s
  | .dbnza rr => Sys2Proof.Machine.execDbnza rr s
  | .dbnzx rr => Sys2Proof.Machine.execDbnzx rr s
  | .mul => Sys2Proof.Machine.execMul s
  | .div => Sys2Proof.Machine.execDiv s
  | .nsa => Sys2Proof.Machine.execNsa s
  | .daa => Sys2Proof.Machine.execDaa s
  | .sthx dd => Sys2Proof.Machine.execSthx dd s
  | .ldhx src => Sys2Proof.Machine.execLdhx src s
  | .cphx src => Sys2Proof.Machine.execCphx src s
  | .mov m => Sys2Proof.Machine.execMov m s
  | .rti => Sys2Proof.Machine.execRti s
  | .rts => Sys2Proof.Machine.execRts s
  | .swi => Sys2Proof.Machine.execSwi s
  | .tap => Sys2Proof.Machine.execTap s
  | .tpa => Sys2Proof.Machine.execTpa s
  | .pula => Sys2Proof.Machine.execPula s
  | .psha => Sys2Proof.Machine.execPsha s
  | .pulx => Sys2Proof.Machine.execPulx s
  | .pshx => Sys2Proof.Machine.execPshx s
  | .pulh => Sys2Proof.Machine.execPulh s
  | .pshh => Sys2Proof.Machine.execPshh s
  | .clrh => Sys2Proof.Machine.execClrh s
  | .stop => Sys2Proof.Machine.execStop s
  | .wait => Sys2Proof.Machine.execWait s
  | .txs => Sys2Proof.Machine.execTxs s
  | .tsx => Sys2Proof.Machine.execTsx s
  | .tax => Sys2Proof.Machine.execTax s
  | .clc => Sys2Proof.Machine.execClc s
  | .sec => Sys2Proof.Machine.execSec s
  | .cli => Sys2Proof.Machine.execCli s
  | .sei => Sys2Proof.Machine.execSei s
  | .rsp => Sys2Proof.Machine.execRsp s
  | .nop => Sys2Proof.Machine.execNop s
  | .txa => Sys2Proof.Machine.execTxa s
  | .sub src => Sys2Proof.Machine.execSub src s
  | .cmp src => Sys2Proof.Machine.execCmp src s
  | .sbc src => Sys2Proof.Machine.execSbc src s
  | .cpx src => Sys2Proof.Machine.execCpx src s
  | .and src => Sys2Proof.Machine.execAnd src s
  | .bit src => Sys2Proof.Machine.execBit src s
  | .lda src => Sys2Proof.Machine.execLda src s
  | .eor src => Sys2Proof.Machine.execEor src s
  | .adc src => Sys2Proof.Machine.execAdc src s
  | .ora src => Sys2Proof.Machine.execOra src s
  | .add src => Sys2Proof.Machine.execAdd src s
  | .ldx src => Sys2Proof.Machine.execLdx src s
  | .sta m => Sys2Proof.Machine.execSta m s
  | .jmp m => Sys2Proof.Machine.execJmp m s
  | .jsr m => Sys2Proof.Machine.execJsr m s
  | .stx m => Sys2Proof.Machine.execStx m s
  | .ais ii => Sys2Proof.Machine.execAis ii s
  | .bsr rr => Sys2Proof.Machine.execBsr rr s
  | .aix ii => Sys2Proof.Machine.execAix ii s

end Sys2Proof.Machine
end

