-- ==== Sys2Proof/Machine/Timing.lean ====
section
/-! DEFINITION. Bus cycles of every instruction (R370): timing only, they feed the COP counter and nothing
else (R337). A form the instruction does not have counts as its nearest row; no bytes decode to one. -/

namespace Sys2Proof

/-- Load, arithmetic, logic, compare and store on a memory operand; also TST and CLR. -/
def MemOperand.cycles : MemOperand → Nat
  | .dir _ => 3
  | .ext _ => 4
  | .ix2 _ => 4
  | .ix1 _ => 3
  | .ix => 2
  | .sp1 _ => 4
  | .sp2 _ => 5

/-- Load, arithmetic, logic, compare. -/
def Src.cycles : Src → Nat
  | .imm _ => 2
  | .mem m => m.cycles

/-- JMP. -/
def MemOperand.jumpCycles : MemOperand → Nat
  | .dir _ => 2
  | .ext _ => 3
  | .ix2 _ | .sp2 _ => 4
  | .ix1 _ | .sp1 _ => 3
  | .ix => 2

/-- LDHX and CPHX. -/
def Src16.cycles : Src16 → Nat
  | .imm _ => 3
  | .dir _ => 4

/-- CBEQ on memory. -/
def CmpOperand.cycles : CmpOperand → Nat
  | .dir _ => 5
  | .sp1 _ => 6
  | .ixInc => 4
  | .ix1Inc _ => 5

/-- MOV. -/
def Move.cycles : Move → Nat
  | .dirDir _ _ => 5
  | .dirIxInc _ | .immDir _ _ | .ixIncDir _ => 4

/-- Bus cycles of an instruction (R370). -/
def Instr.cycles : Instr → Nat
  | .brset _ _ _ | .brclr _ _ _ => 5
  | .bset _ _ | .bclr _ _ => 4
  | .bra _ | .brn _ | .bhi _ | .bls _ | .bcc _ | .bcs _ | .bne _ | .beq _ | .bhcc _ | .bhcs _
  | .bpl _ | .bmi _ | .bmc _ | .bms _ | .bil _ | .bih _ | .bge _ | .blt _ | .bgt _ | .ble _ => 3
  | .neg m | .com m | .lsr m | .ror m | .asr m | .lsl m | .rol m | .dec m | .inc m => m.cycles + 1
  | .tst m | .clr m | .sta m | .stx m => m.cycles
  | .nega | .negx | .coma | .comx | .lsra | .lsrx | .rora | .rorx | .asra | .asrx | .lsla | .lslx
  | .rola | .rolx | .deca | .decx | .inca | .incx | .tsta | .tstx | .clra | .clrx | .clrh => 1
  | .cbeq m _ => m.cycles
  | .cbeqa _ _ | .cbeqx _ _ => 4
  | .dbnz m _ => m.cycles + 2
  | .dbnza _ | .dbnzx _ => 3
  | .mul => 5
  | .div => 7
  | .nsa => 3
  | .daa => 2
  | .sthx _ => 4
  | .ldhx s | .cphx s => s.cycles
  | .mov m => m.cycles
  | .rti => 7
  | .rts => 4
  | .swi => 9
  | .tap | .pula | .psha | .pulx | .pshx | .pulh | .pshh | .txs | .tsx | .cli | .sei => 2
  | .tpa | .tax | .txa | .clc | .sec | .rsp | .nop | .stop | .wait => 1
  | .sub s | .cmp s | .sbc s | .cpx s | .and s | .bit s | .lda s | .eor s | .adc s | .ora s | .add s
  | .ldx s => s.cycles
  | .jmp m => m.jumpCycles
  | .jsr m => m.jumpCycles + 2
  | .ais _ | .aix _ => 2
  | .bsr _ => 4

/-- The time that bus cycles take, in nanoseconds (R370, R371): timing only. -/
def Platform.nanoseconds (p : Platform) (cycles : Nat) : Nat := cycles * 1000000000 / p.fBus

end Sys2Proof
end

