-- ==== Sys2Proof/Machine/Boundary.lean ====
section
/-! DEFINITION. One step of the machine, from one instruction boundary to the next (R327): the inputs of the
environment, then a reset, then an interrupt, then the fetch and the instruction. -/

namespace Sys2Proof.Machine

/-- The inputs that stay when none are scheduled: the IRQ pin at its later level, nothing new on the latch (log 9). -/
def Inputs.settled (e : Inputs) : Inputs := { e with irqPin := e.irqPinLater, irqRequest := false }

/-- New inputs at a boundary. The external interrupt latch is set where the IRQ pin fell, since the last boundary or
inside the instruction before, or where the environment says so (D13, R317; log 10). -/
def State.observe (s : State) (e : Inputs) (rest : List Inputs) : State :=
  { s with
    inputs := e, schedule := rest
    irqLatch := s.irqLatch || (s.inputs.irqPin && !s.inputs.irqPinLater)
      || (s.inputs.irqPinLater && !e.irqPin) || e.irqRequest }

/-- The environment's next inputs: the scheduled ones, or those there are, settled (log 9). -/
def State.sample (s : State) : State :=
  match s.schedule with
  | [] => s.observe s.inputs.settled []
  | e :: rest => s.observe e rest

/-- A boundary is reached: fresh free values, fresh inputs (logs 9 and 12). -/
def State.arrive (s : State) : State := ({ s with draws := s.draws + 1 }).sample

/-- `ResetRequested()` (R327): the environment's request, or the COP counter at the end of its count (R337).
DESIGN CHOICE: where both are there the environment's cause is the one recorded (R326: not in D1; log 35). DESIGN
CHOICE: with the COP disabled the counter goes on past CopTimeout and does not wrap, so enabling the COP then
resets at the next boundary (log 7). -/
def State.resetRequest (s : State) : Option ResetCause :=
  match s.inputs.reset with
  | some cause => some cause
  | none => if s.copEnabled && decide (s.plat.copTimeout ≤ s.copCounter) then some .cop else none

/-- `pending[q]` (R317, D13). -/
def State.pending (s : State) (q : IntSource) : Bool :=
  match q with
  | .irq1 => s.irqLatch
  | .timebase | .adc | .keyboard | .sciTransmit | .sciReceive | .sciError | .timOverflow
  | .timChannel1 | .timChannel0 | .cmireq | .spi | .cgm | .other _ => s.inputs.requests.get q

/-- The sources that can end a low-power state: any in WAIT, those that need no clock in STOP (R342, R327). DESIGN
CHOICE: the request of any other source that is already pending when STOP executes stays pending while the CPU is
stopped, by R327 and R342, where R295 has a pending request recognised at once and names no sources (log 16). -/
def State.canWake (s : State) (q : IntSource) : Bool :=
  match s.power with
  | .running | .waiting => true
  | .stopped => s.plat.stopWakers.contains q

/-- The source's request reaches the SIM: pending, enabled, and able to end the state the CPU is in (R311,
R318, R342). -/
def State.presents (s : State) (e : SourceEntry) : Bool :=
  s.pending e.source && s.enable.get e.source && s.canWake e.source

/-- The entry of the highest priority; of equal ones the first (R319, log 34). -/
def SourceEntry.highest : List SourceEntry → Option SourceEntry
  | [] => none
  | e :: rest =>
    match SourceEntry.highest rest with
    | none => some e
    | some f => if e.priority ≤ f.priority then some e else some f

/-- The request the SIM presents to the CPU: of the part's sources that present one, the highest (R319, R327). -/
def State.request (s : State) : Option SourceEntry :=
  SourceEntry.highest (s.plat.sources.filter s.presents)

/-- `CliDelayActive` (R320, R327). -/
def State.cliHeld (s : State) : Bool :=
  match s.power with
  | .running => s.plat.cliDelay && s.cliWindow
  | .waiting | .stopped => false

/-- The interrupt taken at this boundary: none with I = 1 (R316) or in the CLI window (R320). -/
def State.interrupt (s : State) : Option SourceEntry :=
  if s.ccr.i || s.cliHeld then none else s.request

/-- Entry for a hardware source (R321): a low-power state ends; the IRQ1 vector fetch clears the latch
(R317). -/
def State.takeHardware (s : State) (q : SourceEntry) : State :=
  let t := s.takeInterrupt q.vector
  { t with
    power := .running, cliWindow := false, stored := []
    irqLatch := t.irqLatch && q.source != .irq1
    copCounter := t.copCounter + s.plat.entryCycles }

/-- No request: the CPU stays in its low-power state (R294, R295, U9). The COP counter runs while the
oscillator does (R337, R342). -/
def State.idle (s : State) : State :=
  match s.power with
  | .running | .stopped => s
  | .waiting => { s with copCounter := s.copCounter + s.plat.waitCycles }

/-- The bytes the longest instruction could have, read at PC (R80, R13). -/
def State.fetchBytes (s : State) : List Byte :=
  [s.read 8 s.pc, s.read 9 (s.pc + 1), s.read 10 (s.pc + 2), s.read 11 (s.pc + 3)]

/-- PC past the instruction's bytes (R13), the windows of the instruction before closed, its bus cycles
counted, without end while the COP is disabled (DESIGN CHOICE, log 7). -/
def State.begin (s : State) (length cycles : Nat) : State :=
  { s with
    pc := s.pc + BitVec.ofNat 16 length, cliWindow := false, stored := []
    copCounter := s.copCounter + cycles }

/-- Fetch, decode and execute (R326 item 3): an illegal address resets before any byte is decoded (R307), an
illegal opcode resets with nothing of it done (R308); a first byte the instruction before stored to is
refused (R68). -/
def State.runInstr (s : State) : Result :=
  if s.plat.illegalFetch s.pc then .next (s.doReset .illegalAddress)
  else if s.stored.contains s.pc then .refused .storeToNextOpcode
  else
    match decode s.fetchBytes with
    | .error _ => .next (s.doReset .illegalOpcode)
    | .ok (i, rest) => exec i (s.begin (4 - rest.length) i.cycles)

/-- What happens at a boundary once the inputs are there: reset, then interrupt, then halt or instruction
(R326, R327). -/
def State.act (s : State) : Result :=
  match s.resetRequest with
  | some cause => .next (s.doReset cause)
  | none =>
    match s.interrupt with
    | some q => .next (s.takeHardware q)
    | none =>
      match s.power with
      | .running => s.runInstr
      | .waiting | .stopped => .next s.idle

/-- One step (R327). -/
def State.cycle (s : State) : Result := s.arrive.act

/-- Bytes stored in memory from an address on, without a bus write. -/
def Memory.load (m : Memory) (a : Word) : List Byte → Memory
  | [] => m
  | b :: bs => Memory.load (m.write a.toNat b) (a + 1) bs

/-- The four addresses from PC on are memory, and the first may be fetched from. -/
def State.fetchable (s : State) : Bool :=
  let memory := fun a => (s.plat.spaceAt a).isMemory
  !s.plat.illegalFetch s.pc && memory s.pc && memory (s.pc + 1) && memory (s.pc + 2)
    && memory (s.pc + 3)

/-- The state with `bs` at PC and nothing at the next boundary in the way of fetching them: no reset, no
request, no low-power state, no window; memory at PC where the platform has none (log 24). -/
def State.withBytes (s : State) (bs : List Byte) : State :=
  { s with
    mem := s.mem.load s.pc bs
    power := .running, stored := [], irqLatch := false, schedule := []
    copEnabled := s.copEnabled && decide (s.copCounter < s.plat.copTimeout)
    inputs := { s.inputs.settled with reset := none, requests := SourceFlags.none }
    plat := if s.fetchable then s.plat
      else { s.plat with map := Platform.flat.map, legalFetch := Platform.flat.legalFetch } }

end Sys2Proof.Machine
end

