-- ==== Sys2Proof/Machine/Step.lean ====
section
/-! DEFINITION. The step, and a word placed where the step fetches its next instruction. -/

namespace Sys2Proof.Machine

/-- One step of the machine (R327). -/
def step (s : State) : Host.Outcome State Fault Refusal := s.cycle

/-- The instruction whose bits are `w`, stored at PC (decodeTableWord's numbering; log 24). -/
def State.withFetchWord (s : State) (nbits w : Nat) : State := s.withBytes (tableBytes nbits w)

end Sys2Proof.Machine
end

