-- ==== Sys2Proof/Machine/Image.lean ====
section
/-! DEFINITION. The memory image a run starts from (D14), and its loading, which refuses an image that leaves a vector
it uses unfilled (R354, U8). The machine itself loads PC with whatever the two bytes of a vector hold. -/

namespace Sys2Proof.Machine

/-- What is loaded before a run: the bytes of the S-records, and which vectors the program relies on (D14, R354). -/
structure Image where
  /-- The bytes, in the order they are loaded. -/
  cells : List Host.Cell
  /-- The sources whose interrupts the program enables. -/
  enables : List IntSource
  /-- The program executes SWI. -/
  usesSwi : Bool
deriving DecidableEq, Repr

/-- Why an image is not loaded. No step answers this. -/
inductive ImageRefusal where
  /-- The image does not fill both bytes of a vector it uses (R354, U8: "A model refuses an image ..."). Safe. -/
  | unprogrammed (vector : Word)
deriving DecidableEq, Repr

/-- The image fills the byte of memory at an address, with whatever value. -/
def Image.fills (i : Image) (p : Platform) (a : Word) : Bool :=
  p.isMemory a.toNat && i.cells.any (·.1 == a.toNat)

/-- The image programs a vector: both its bytes are filled (R354). -/
def Image.programs (i : Image) (p : Platform) (vector : Word) : Bool :=
  i.fills p vector && i.fills p (vector + 1)

/-- The vectors an image must program: reset, that of every source of the part that it enables (U8), and SWI's where it
uses SWI (R354). -/
def Image.vectors (i : Image) (p : Platform) : List Word :=
  resetVector :: (if i.usesSwi then [swiVector] else []) ++
    (p.sources.filter fun e => i.enables.contains e.source).map (·.vector)

/-- The bytes of an image in memory, where the platform has memory. -/
def State.withImage (s : State) (i : Image) : State :=
  { s with mem := Memory.writeAll s.plat.isMemory i.cells s.mem }

/-- Load an image: refused where it leaves a vector unfilled that it uses, otherwise its bytes in memory and PC from the
reset vector (R354, U8, D14). State.reset.load is how a run starts (log 25). -/
def State.load (s : State) (i : Image) : Except ImageRefusal State :=
  match (i.vectors s.plat).find? fun v => !i.programs s.plat v with
  | some v => .error (.unprogrammed v)
  | none =>
    let t := s.withImage i
    .ok { t with pc := t.read16 0 resetVector }

end Sys2Proof.Machine
end

