-- ==== Sys2Proof/Safety.lean ====
section
/-! DEFINITION. The invariant of the machine, what a safe run is (one that is never refused), and the words the
statements about the machine use: the parts of the state, what a store leaves behind, and which instructions
the spec says write a register or a flag. -/

namespace Sys2Proof.Machine

/-- The invariant every step keeps: memory in its canonical form, and I clear in a low-power state (WAIT and
STOP clear it, R294, R295, and only leaving the state can set it, R321, R350). -/
def State.Inv (s : State) : Prop := s.mem.wf = true ∧ (s.power ≠ .running → s.ccr.i = false)

/-- No step from `s` on is refused: the program never stores to the first byte of its very next instruction
(R68). -/
def State.NeverRefused (s : State) : Prop := ∀ k r, Sys2Proof.core.run k s ≠ .refused r

/-! The parts of the state -/

/-- What the CPU itself holds. -/
structure Cpu where
  a : Byte
  h : Byte
  x : Byte
  sp : Word
  pc : Word
  ccr : CCR
  power : Power
  cliWindow : Bool
deriving DecidableEq, Repr

/-- The platform registers a bus write can change. -/
structure Devices where
  enable : SourceFlags
  portA : Byte
  portB : Byte
  ddrA : Byte
  ddrB : Byte
  config1 : Byte
  config2 : Byte
  copEnabled : Bool
  copCounter : Nat
  outputs : List Host.Cell
deriving DecidableEq, Repr

/-- What no instruction changes. -/
structure Environment where
  irqLatch : Bool
  resetCause : ResetCause
  inputs : Inputs
  schedule : List Inputs
  draws : Nat
  plat : Platform
deriving DecidableEq, Repr

/-- The CPU's part. -/
def State.cpu (s : State) : Cpu := ⟨s.a, s.h, s.x, s.sp, s.pc, s.ccr, s.power, s.cliWindow⟩

/-- The devices' part. -/
def State.devices (s : State) : Devices :=
  ⟨s.enable, s.portA, s.portB, s.ddrA, s.ddrB, s.config1, s.config2, s.copEnabled, s.copCounter,
    s.outputs⟩

/-- The environment's part. -/
def State.environment (s : State) : Environment :=
  ⟨s.irqLatch, s.resetCause, s.inputs, s.schedule, s.draws, s.plat⟩

/-! Stores -/

/-- A bus write at this address stores a byte of RAM: RAM answers there, and it is not $FFFF, whose write
clears the COP counter and stores nothing (R337). -/
def State.ramAt (s : State) (a : Word) : Bool := s.plat.spaceAt a == .ram && a != 0xFFFF#16

/-- The bus writes of a list of bytes, one after another. -/
def State.writes (s : State) (cells : List (Word × Byte)) : State :=
  cells.foldl (fun u c => u.write c.1 c.2) s

/-- `t` is `s` after exactly these bus writes, at different addresses, as far as memory, devices and environment
go: RAM at those addresses holds the bytes, every other byte of memory reads as before, the devices are as the
writes leave them, and nothing else changed. -/
def State.StoresExactly (s t : State) (cells : List (Word × Byte)) : Prop :=
  t.environment = s.environment ∧
  t.devices = (s.writes cells).devices ∧
  t.stored = ((cells.map (·.1)).filter fun a => (s.plat.spaceAt a).meetsPrefetch).reverse ++ s.stored ∧
  (∀ n : Nat, (∀ c ∈ cells, n ≠ c.1.toNat) → t.mem.read n = s.mem.read n) ∧
  ∀ c ∈ cells, t.mem.read c.1.toNat = if s.ramAt c.1 then c.2 else s.mem.read c.1.toNat

/-- The target of a taken branch: the address of the next instruction plus the signed offset (R126). -/
def State.branchTarget (s : State) (rr : Byte) : Word := BitVec.ofInt 16 (s.pc.toNat + rr.toInt)

/-- The three shapes of a single-operand instruction (R179 to R182, R221 to R225): on A, on X, and on a byte of
memory, which is read once and then written. `result` and `flags` compute from the flags and the operand
before. -/
def SingleOperand (onMemory : MemOperand → Instr) (onA onX : Instr) (result : CCR → Byte → Byte)
    (flags : CCR → Byte → CCR) : Prop :=
  ∀ s : State,
    exec onA s = .next { s with a := result s.ccr s.a, ccr := flags s.ccr s.a } ∧
    exec onX s = .next { s with x := result s.ccr s.x, ccr := flags s.ccr s.x } ∧
    ∀ m : MemOperand, s.mem.wf = true → ∃ t, exec (onMemory m) s = .next t ∧
      t.cpu = { s.cpu with ccr := flags s.ccr (s.read 0 (s.ea m)) } ∧
      s.StoresExactly t [(s.ea m, result s.ccr (s.read 0 (s.ea m)))]


end Sys2Proof.Machine

namespace Sys2Proof

/-! Which instructions write what -/


/-- The instructions R37 lists as writing no flag. -/
def Instr.writesNoFlag : Instr → Bool
  | .psha | .pshh | .pshx | .pula | .pulh | .pulx | .tpa | .tax | .txa | .txs | .tsx | .ais _ | .aix _
  | .bset _ _ | .bclr _ _ | .bra _ | .brn _ | .bhi _ | .bls _ | .bcc _ | .bcs _ | .bne _ | .beq _
  | .bhcc _ | .bhcs _ | .bpl _ | .bmi _ | .bmc _ | .bms _ | .bil _ | .bih _ | .bge _ | .blt _ | .bgt _
  | .ble _ | .cbeq _ _ | .cbeqa _ _ | .cbeqx _ _ | .dbnz _ _ | .dbnza _ | .dbnzx _ | .jmp _ | .jsr _
  | .bsr _ | .rts | .nsa | .rsp | .nop => true
  | _ => false

/-- The instructions that write Hf (R32). -/
def Instr.writesHf : Instr → Bool
  | .add _ | .adc _ | .mul | .rti | .tap => true
  | _ => false

/-- The instructions that write I (R33). -/
def Instr.writesI : Instr → Bool
  | .sei | .cli | .swi | .wait | .stop | .rti | .tap => true
  | _ => false

/-- The instructions that can set I (R33). -/
def Instr.setsI : Instr → Bool
  | .sei | .swi | .rti | .tap => true
  | _ => false

/-- The instructions that write C (R36). -/
def Instr.writesC : Instr → Bool
  | .add _ | .adc _ | .sub _ | .sbc _ | .cmp _ | .cpx _ | .cphx _ | .neg _ | .nega | .negx
  | .lsl _ | .lsla | .lslx | .rol _ | .rola | .rolx | .asr _ | .asra | .asrx | .lsr _ | .lsra | .lsrx
  | .ror _ | .rora | .rorx | .div | .daa | .com _ | .coma | .comx | .sec | .clc | .mul
  | .brset _ _ _ | .brclr _ _ _ | .rti | .tap => true
  | _ => false

/-- The instructions that write V (R31). -/
def Instr.writesV : Instr → Bool
  | .add _ | .adc _ | .sub _ | .sbc _ | .cmp _ | .cpx _ | .cphx _ | .neg _ | .nega | .negx | .inc _ | .inca
  | .incx | .dec _ | .deca | .decx | .lsl _ | .lsla | .lslx | .asr _ | .asra | .asrx | .lsr _ | .lsra | .lsrx
  | .rol _ | .rola | .rolx | .ror _ | .rora | .rorx | .lda _ | .ldx _ | .ldhx _ | .sta _ | .stx _ | .sthx _
  | .mov _ | .and _ | .ora _ | .eor _ | .bit _ | .com _ | .coma | .comx | .clr _ | .clra | .clrx | .clrh
  | .tst _ | .tsta | .tstx | .daa | .rti | .tap => true
  | _ => false

/-- The instructions that write N (R34): those that write V. -/
def Instr.writesN (i : Instr) : Bool := i.writesV

/-- The instructions that write Z (R35): those that write N, and DIV. -/
def Instr.writesZ (i : Instr) : Bool := i.writesN || i == .div

/-- The instructions that write A (R20). -/
def Instr.writesA : Instr → Bool
  | .lda _ | .add _ | .adc _ | .sub _ | .sbc _ | .and _ | .ora _ | .eor _ | .nega | .coma | .lsra | .rora
  | .asra | .lsla | .rola | .deca | .inca | .clra | .dbnza _ | .mul | .div | .daa | .nsa | .txa | .tpa
  | .pula | .rti => true
  | _ => false

/-- The instructions that write X alone or as the low half of H:X (R22, R23). -/
def Instr.writesX : Instr → Bool
  | .ldx _ | .negx | .comx | .lsrx | .rorx | .asrx | .lslx | .rolx | .decx | .incx | .clrx | .dbnzx _
  | .mul | .tax | .pulx | .rti | .ldhx _ | .aix _ | .tsx | .cbeq .ixInc _ | .cbeq (.ix1Inc _) _
  | .mov (.dirIxInc _) | .mov (.ixIncDir _) => true
  | _ => false

/-- The instructions that write H (R23, R186). -/
def Instr.writesH : Instr → Bool
  | .pulh | .clrh | .div | .ldhx _ | .aix _ | .tsx | .cbeq .ixInc _ | .cbeq (.ix1Inc _) _
  | .mov (.dirIxInc _) | .mov (.ixIncDir _) => true
  | _ => false

/-- The instructions that write SP (R24). -/
def Instr.writesSP : Instr → Bool
  | .rsp | .txs | .ais _ | .psha | .pshh | .pshx | .pula | .pulh | .pulx | .jsr _ | .bsr _ | .rts | .swi
  | .rti => true
  | _ => false

/-- The instructions that write PC other than by sequential advance (R28). -/
def Instr.writesPC : Instr → Bool
  | .bra _ | .brn _ | .bhi _ | .bls _ | .bcc _ | .bcs _ | .bne _ | .beq _
  | .bhcc _ | .bhcs _ | .bpl _ | .bmi _ | .bmc _ | .bms _ | .bil _ | .bih _ | .bge _ | .blt _ | .bgt _
  | .ble _ | .brset _ _ _ | .brclr _ _ _ | .cbeq _ _ | .cbeqa _ _ | .cbeqx _ _ | .dbnz _ _ | .dbnza _
  | .dbnzx _ | .bsr _ | .jmp _ | .jsr _ | .rts | .rti | .swi => true
  | _ => false

/-- The instructions that write memory (R61, R62). -/
def Instr.writesMemory : Instr → Bool
  | .neg _ | .com _ | .lsr _ | .ror _ | .asr _ | .lsl _ | .rol _ | .dec _ | .inc _ | .dbnz _ _ | .bset _ _
  | .bclr _ _ | .clr _ | .sta _ | .stx _ | .sthx _ | .mov _ | .psha | .pshh | .pshx | .jsr _ | .bsr _
  | .swi => true
  | _ => false

end Sys2Proof
end

