-- ==== Sys2Proof/Certificates/Slice0/Obligations.lean ====
section
/-! DEFINITION. The statements about the machine. Arithmetic is stated over the integers, apart from the bit
operations the meanings use. `next` is a next state; a statement says what it holds. -/

open Sys2Proof Sys2Proof.Machine

/-! Encoding -/

/-- Decoding an encoded well-formed instruction gives it back, with every operand at every value. -/
def Obligations.DecodeEncode : Prop :=
  ∀ (i : Instr) (rest : List Byte), i.wellFormed = true → decode (encode i ++ rest) = .ok (i, rest)

/-- Whatever decodes is a well-formed instruction, and its bytes are that instruction's encoding: every byte
sequence has one meaning. -/
def Obligations.EncodeDecode : Prop :=
  ∀ (bs : List Byte) (i : Instr) (rest : List Byte), decode bs = .ok (i, rest) →
    i.wellFormed = true ∧ encode i ++ rest = bs

/-- Instruction bytes that the spec prints, and what they stand for. -/
def Obligations.SpecWordsDecode : Prop :=
  decode [0xA6#8, 0x80#8] = .ok (.lda (.imm 0x80#8), []) ∧
  decode [0xC6#8, 0xE3#8, 0x65#8] = .ok (.lda (.mem (.ext 0xE365#16)), []) ∧
  decode [0xD6#8, 0xE3#8, 0x77#8] = .ok (.lda (.mem (.ix2 0xE377#16)), []) ∧
  decode [0x9E#8, 0xE7#8, 0x05#8] = .ok (.sta (.sp1 0x05#8), []) ∧
  decode [0x71#8, 0x02#8] = .ok (.cbeq .ixInc 0x02#8, []) ∧
  decode [0x6E#8, 0x01#8, 0x1F#8] = .ok (.mov (.immDir 0x01#8 0x1F#8), []) ∧
  decode [0x19#8, 0x00#8] = .ok (.bclr 4#3 0x00#8, []) ∧
  decode [0x07#8, 0x01#8, 0xFD#8] = .ok (.brclr 3#3 0x01#8 0xFD#8, []) ∧
  decode [0x20#8, 0xE2#8] = .ok (.bra 0xE2#8, [])

/-- R93: which bytes select no instruction, and that executing one resets the machine. -/
def Obligations.IllegalOpcodes : Prop :=
  (∀ b0 b1 b2 b3 : Byte, (∃ e, decode [b0, b1, b2, b3] = .error e) ↔
    b0 ∈ [0x32#8, 0x3E#8, 0x82#8, 0x8D#8, 0x96#8, 0xAC#8] ∨
    b0 = 0x9E#8 ∧ ¬(b1 = 0x60#8 ∨ b1 = 0x61#8 ∨ b1 = 0x63#8 ∨ b1 = 0x64#8 ∨
      (0x66#8 ≤ b1 ∧ b1 ≤ 0x6D#8) ∨ b1 = 0x6F#8 ∨ (0xD0#8 ≤ b1 ∧ b1 ≤ 0xDB#8) ∨ b1 = 0xDE#8 ∨
      b1 = 0xDF#8 ∨ (0xE0#8 ≤ b1 ∧ b1 ≤ 0xEB#8) ∨ b1 = 0xEE#8 ∨ b1 = 0xEF#8)) ∧
  ((List.range 256).countP fun n =>
    match decode [0x9E#8, BitVec.ofNat 8 n, 0#8, 0#8] with
    | .error _ => true
    | .ok _ => false) = 215 ∧
  ∀ s : State, s.arrive.resetRequest = none → s.arrive.interrupt = none → s.power = .running →
    s.plat.illegalFetch s.pc = false → s.pc ∉ s.stored → (∃ e, decode s.arrive.fetchBytes = .error e) →
    step s = .next (s.arrive.doReset .illegalOpcode)

/-! The step -/

/-- Where nothing comes first and the bytes at PC decode to an instruction, the step is that instruction's
meaning, run with PC past its bytes and the CLI window of the instruction before closed (R326, R327). That the
COP counter adds the instruction's cycles is the model's choice (log 7), and so is that the record of stores
starts empty again (log 18). -/
def Obligations.StepRunsDecoded : Prop :=
  ∀ (s : State) (i : Instr) (rest : List Byte),
    s.arrive.resetRequest = none → s.arrive.interrupt = none → s.power = .running →
    s.plat.illegalFetch s.pc = false → s.pc ∉ s.stored → decode s.arrive.fetchBytes = .ok (i, rest) →
    step s = exec i { s.arrive with
      pc := s.pc + BitVec.ofNat 16 (encode i).length, cliWindow := false, stored := []
      copCounter := s.copCounter + i.cycles }

/-- A reset comes before everything else: the environment's, or the COP's once its enabled counter has reached
the time-out. With no reset and no interrupt, a fetch from an illegal address resets before any byte is looked
at (R304, R307, R326, R337). Two clauses are the model's choice: where the environment's reset and the COP
time-out meet, the environment's cause is recorded (log 35), and the counter is compared at boundaries (log 7). -/
def Obligations.ResetCauses : Prop :=
  ∀ s : State,
    (∀ c, s.arrive.inputs.reset = some c → step s = .next (s.arrive.doReset c)) ∧
    (s.arrive.inputs.reset = none → s.copEnabled = true → s.plat.copTimeout ≤ s.copCounter →
      step s = .next (s.arrive.doReset .cop)) ∧
    (s.arrive.inputs.reset = none → (s.copEnabled = false ∨ s.copCounter < s.plat.copTimeout) →
      s.arrive.resetRequest = none) ∧
    (s.arrive.resetRequest = none → s.arrive.interrupt = none → s.power = .running →
      s.plat.illegalFetch s.pc = true → step s = .next (s.arrive.doReset .illegalAddress))

/-- When an interrupt is taken and which one. None is taken with I set or in the CLI window, nor where no source of
the part presents an enabled pending request that can end the state the CPU is in; in every other case one is,
and none that presents a request has a higher priority. Where the part's priorities differ, that source is the
only one with these properties (R312, R316, R319, R320, R327, R342; a tie goes by the list, log 34). In the table
of D1's part the priority rises with the vector address (R312). -/
def Obligations.InterruptCondition : Prop :=
  (∀ s : State,
    let masked := s.ccr.i = true ∨ (s.power = .running ∧ s.plat.cliDelay = true ∧ s.cliWindow = true)
    let presented := fun q : SourceEntry => q ∈ s.plat.sources ∧ s.pending q.source = true ∧
      s.enable.get q.source = true ∧ (s.power = .stopped → q.source ∈ s.plat.stopWakers)
    let first := fun q : SourceEntry => presented q ∧ ∀ q', presented q' → q.priority ≤ q'.priority
    (s.interrupt = none ↔ masked ∨ ∀ q, ¬presented q) ∧
    (∀ q, s.interrupt = some q → ¬masked ∧ first q) ∧
    ((s.plat.sources.Pairwise fun p q => p.priority ≠ q.priority) →
      ∀ q, ¬masked → first q → s.interrupt = some q)) ∧
  ∀ p ∈ IntSource.table, ∀ q ∈ IntSource.table,
    p.priority < q.priority ↔ q.vector.toNat < p.vector.toNat

/-- The step that takes a hardware interrupt: the entry through the source's vector, out of the low-power state,
the external latch cleared by the IRQ1 entry alone, the devices as the pushes leave them (R317, R321, R327, R342).
That the record of stores is empty afterwards is the model's reading (log 18), and the cycles that the COP
counter adds are its choice (log 8). -/
def Obligations.InterruptStep : Prop :=
  ∀ (s : State) (q : SourceEntry), s.arrive.resetRequest = none → s.arrive.interrupt = some q →
    let entered := s.arrive.takeInterrupt q.vector
    ∃ t, step s = .next t ∧
      t.cpu = { entered.cpu with power := .running, cliWindow := false } ∧
      t.mem = entered.mem ∧ t.stored = [] ∧
      t.devices = { entered.devices with copCounter := entered.copCounter + s.plat.entryCycles } ∧
      t.environment = { s.arrive.environment with
        irqLatch := if q.source = .irq1 then false else s.arrive.irqLatch }

/-- R322, by the sequence of R321: the interrupt entry. The frame PCL, PCH, X, A, CCR is pushed, I is set after CCR was pushed, PC
is the word at the vector, SP is five lower; A, X, H, the other flags and every other byte stay; inside the
handler the frame is 1,SP to 5,SP. -/
def Obligations.InterruptEntry : Prop :=
  ∀ (s : State) (vector : Word), s.mem.wf = true →
    let t := s.takeInterrupt vector
    let frame : List (Word × Byte) :=
      [(s.sp, BitVec.ofNat 8 s.pc.toNat), (s.sp - 1, BitVec.ofNat 8 (s.pc.toNat / 256)), (s.sp - 2, s.x),
        (s.sp - 3, s.a), (s.sp - 4, s.ccr.toByte)]
    s.StoresExactly t frame ∧
    t.cpu = { s.cpu with
      sp := s.sp - 5, ccr := { s.ccr with i := true }
      pc := BitVec.ofNat 16 (256 * (t.read 0 vector).toNat + (t.read 1 (vector + 1)).toNat) } ∧
    ∀ k, (∀ c ∈ frame, s.ramAt c.1 = true) →
      t.read k (t.sp + 1) = s.ccr.toByte ∧ t.read k (t.sp + 2) = s.a ∧ t.read k (t.sp + 3) = s.x ∧
      t.read k (t.sp + 4) = BitVec.ofNat 8 (s.pc.toNat / 256) ∧
      t.read k (t.sp + 5) = BitVec.ofNat 8 s.pc.toNat

/-- A step of a halted CPU with no reset and no interrupt changes nothing but the COP counter (R294, R295, R342). How
fast the counter runs in WAIT is the model's choice (log 8), and that it stands still in the stopped state is the
model's reading of R337, which clocks it while the oscillator runs (log 7). -/
def Obligations.HaltedStays : Prop :=
  ∀ s : State, s.power ≠ .running → s.arrive.resetRequest = none → s.arrive.interrupt = none →
    ∃ n, step s = .next { s.arrive with copCounter := n } ∧ (s.power = .stopped → n = s.copCounter)

/-- The machine never stops: the one refusal is the store to the first byte of the next instruction (R68, R303).
Where exactly is the model's reading (log 18): a reset, an interrupt and an illegal fetch come before the refusal,
and the stores that count are those that BusWrite records, all but one to FLASH or ROM. -/
def Obligations.OnlyRefusal : Prop :=
  ∀ s : State,
    (∀ r, step s = .refused r ↔ r = .storeToNextOpcode ∧ s.arrive.resetRequest = none ∧
      s.arrive.interrupt = none ∧ s.power = .running ∧ s.plat.illegalFetch s.pc = false ∧
      s.pc ∈ s.stored) ∧
    ((∃ r, step s = .refused r) ∨ ∃ t, step s = .next t)

/-- What a boundary takes from the environment: the next scheduled inputs, or those there are with the IRQ pin at its
later level, and nothing else changes (the form is the model's choice, log 9). The external interrupt latch is set
there exactly by a falling edge of the IRQ pin, since the boundary before or inside the instruction before, or by
the environment's word (log 10). A latched request is lost in a step only by a reset or by the
entry it asked for (R317, D13; that nothing else clears the latch is the model's reading, log 10). -/
def Obligations.LatchKept : Prop :=
  (∀ s : State, s.schedule = [] →
    s.arrive.environment = { s.environment with
      inputs := { s.inputs with irqPin := s.inputs.irqPinLater, irqRequest := false }
      draws := s.draws + 1, irqLatch := s.arrive.irqLatch } ∧
    (s.arrive.irqLatch = true ↔
      s.irqLatch = true ∨ (s.inputs.irqPin = true ∧ s.inputs.irqPinLater = false))) ∧
  (∀ (s : State) (e : Inputs) (rest : List Inputs), s.schedule = e :: rest →
    s.arrive.environment = { s.environment with
      inputs := e, schedule := rest, draws := s.draws + 1, irqLatch := s.arrive.irqLatch } ∧
    (s.arrive.irqLatch = true ↔
      s.irqLatch = true ∨ (s.inputs.irqPin = true ∧ s.inputs.irqPinLater = false) ∨
        (s.inputs.irqPinLater = true ∧ e.irqPin = false) ∨ e.irqRequest = true)) ∧
  (∀ s : State, s.arrive.cpu = s.cpu ∧ s.arrive.devices = s.devices ∧ s.arrive.mem = s.mem ∧
    s.arrive.stored = s.stored) ∧
  ∀ s t : State, step s = .next t → s.irqLatch = true → t.irqLatch = false →
    (∃ c, t = s.arrive.doReset c) ∨
    ∃ q, q.source = .irq1 ∧ s.arrive.interrupt = some q ∧ t = s.arrive.takeHardware q

/-- I goes from 0 to 1 in a step only by a reset, by an interrupt entry, or by a SEI, SWI, RTI or TAP that the step
runs (R33). -/
def Obligations.WhatSetsI : Prop :=
  ∀ s t : State, step s = .next t → s.ccr.i = false → t.ccr.i = true →
    (∃ c, t = s.arrive.doReset c) ∨
    (∃ q, s.arrive.interrupt = some q ∧ t = s.arrive.takeHardware q) ∨
    s.arrive.resetRequest = none ∧ s.arrive.interrupt = none ∧ s.power = .running ∧
      ∃ i rest, decode s.arrive.fetchBytes = .ok (i, rest) ∧ i.setsI = true ∧
        exec i { s.arrive with
          pc := s.pc + BitVec.ofNat 16 (encode i).length, cliWindow := false, stored := []
          copCounter := s.copCounter + i.cycles } = .next t

/-! Reset -/

/-- What a reset of any cause leaves (R41, R309, R350, R352). Where the platform maps the Reset Status Register, every
read of it names the cause (R305), so that no byte of it names two causes. -/
def Obligations.ResetLeaves : Prop :=
  ∀ (s : State) (c : ResetCause),
    let t := s.doReset c
    t.sp = 0x00FF#16 ∧ t.ccr.i = true ∧ t.irqLatch = false ∧ t.power = .running ∧
    t.enable = SourceFlags.none ∧ t.ddrA = 0x00#8 ∧ t.ddrB = 0x00#8 ∧ t.resetCause = c ∧
    t.pc = BitVec.ofNat 16 (256 * (t.read 0 0xFFFE#16).toNat + (t.read 1 0xFFFF#16).toNat) ∧
    (c ≠ .powerOn → t.mem = s.mem) ∧
    (∀ a k, s.plat.spaceAt a = .resetStatus → namedCause (t.read k a) = some c) ∧
    ∀ a : Word, s.plat.spaceAt a ≠ .ram → t.mem.read a.toNat = s.mem.read a.toNat

/-- The state right after reset has the values R41 gives for PC, SP, I, the latches, the data directions and the
local enables (R350); the values the model chose (logs 1, 3, 4, 15, 31, 33) are not stated. An image is loaded exactly
when it fills both bytes of every vector it uses, with whatever values: reset's, SWI's where it uses SWI, and that
of every source it enables (R354, U8; how an image says so is the model's choice, log 25). Loading changes memory
alone, where the image has bytes, and PC, which it takes from the reset vector. -/
def Obligations.StateAfterReset : Prop :=
  State.reset.sp = 0x00FF#16 ∧ State.reset.ccr.i = true ∧ State.reset.irqLatch = false ∧
  State.reset.power = .running ∧ State.reset.enable = SourceFlags.none ∧ State.reset.ddrA = 0x00#8 ∧
  State.reset.ddrB = 0x00#8 ∧ State.reset.pc = State.reset.read16 0 0xFFFE#16 ∧
  ∀ (s : State) (i : Image),
    let uses := fun v : Word => v = 0xFFFE#16 ∨ (i.usesSwi = true ∧ v = 0xFFFC#16) ∨
      ∃ e ∈ s.plat.sources, e.source ∈ i.enables ∧ e.vector = v
    let filled := fun a : Word => (s.plat.spaceAt a).isMemory = true ∧ ∃ c ∈ i.cells, c.1 = a.toNat
    ((∃ t, s.load i = .ok t) ↔ ∀ v, uses v → filled v ∧ filled (v + 1)) ∧
    (∀ v, s.load i = .error (.unprogrammed v) → uses v ∧ ¬(filled v ∧ filled (v + 1))) ∧
    ∀ t, s.load i = .ok t →
      t = { s with mem := t.mem, pc := t.read16 0 0xFFFE#16 } ∧
      (s.mem.wf = true → t.mem.wf = true ∧
        (∀ n, (∀ c ∈ i.cells, c.1 ≠ n) → t.mem.read n = s.mem.read n) ∧
        ((i.cells.map (·.1)).Nodup → ∀ c ∈ i.cells, ∀ a : Word, c.1 = a.toNat →
          (s.plat.spaceAt a).isMemory = true → t.mem.read c.1 = c.2))

/-- The invariant holds right after reset. -/
def Obligations.InvAtReset : Prop := State.reset.Inv

/-- Every step keeps the invariant, from every state that has it. -/
def Obligations.StepKeepsInv : Prop := ∀ s t : State, s.Inv → step s = .next t → t.Inv

/-- No step changes a byte of any address that is no RAM (R71, R337, D6). That no step changes the platform's
parameters either is the model's choice (log 5). -/
def Obligations.RomNeverChanges : Prop :=
  ∀ s t : State, step s = .next t →
    t.plat = s.plat ∧
    ∀ a : Word, s.plat.spaceAt a ≠ .ram → t.mem.read a.toNat = s.mem.read a.toNat

/-! The bus -/

/-- A bus write, by what answers at the address: $FFFF clears the COP counter and changes no byte; RAM takes the
byte and every other byte stays; ROM and an address with no memory stay; a device register takes it; CONFIG1
takes it, and $01 disables the COP; an I/O address sets the local enable bits that lie there and no other (R54,
R71, R318, R335, R337, R339). The store is recorded for the prefetch rule (R68). The model's own clauses: all eight
bits of a port's latch and direction hold what was written (log 36), $FFFF keeps its byte on every platform (log
28), a write to the Reset Status Register changes nothing but the records (log 22), where the local enable bits lie
(log 11), the record of outputs (log 30), and that a store to ROM is not recorded (log 18). -/
def Obligations.BusWrite : Prop :=
  ∀ (s : State) (a : Word) (v : Byte), s.mem.wf = true →
    let t := s.write a v
    let logged := (a.toNat, v) :: s.outputs
    t.cpu = s.cpu ∧ t.environment = s.environment ∧
    t.stored = (match s.plat.spaceAt a with
      | .rom | .monitorRom => s.stored
      | .ram | .portData _ | .portDirection _ | .config1 | .config2 | .resetStatus | .io | .unimplemented =>
        a :: s.stored) ∧
    (∀ n, n ≠ a.toNat → t.mem.read n = s.mem.read n) ∧
    if a = 0xFFFF#16 then
      t.mem = s.mem ∧ t.devices = { s.devices with copCounter := 0, outputs := logged }
    else match s.plat.spaceAt a with
      | .ram => t.mem.read a.toNat = v ∧ t.devices = s.devices
      | .rom | .monitorRom | .unimplemented => t.mem = s.mem ∧ t.devices = s.devices
      | .portData .a => t.mem = s.mem ∧ t.devices = { s.devices with portA := v, outputs := logged }
      | .portData .b => t.mem = s.mem ∧ t.devices = { s.devices with portB := v, outputs := logged }
      | .portDirection .a => t.mem = s.mem ∧ t.devices = { s.devices with ddrA := v, outputs := logged }
      | .portDirection .b => t.mem = s.mem ∧ t.devices = { s.devices with ddrB := v, outputs := logged }
      | .config1 => t.mem = s.mem ∧ (v = 0x01#8 → t.copEnabled = false) ∧
          t.devices = { s.devices with
            config1 := v, copEnabled := t.copEnabled, outputs := logged }
      | .config2 => t.mem = s.mem ∧ t.devices = { s.devices with config2 := v, outputs := logged }
      | .resetStatus => t.mem = s.mem ∧ t.devices = { s.devices with outputs := logged }
      | .io => t.mem = s.mem ∧
          t.devices = { s.devices with enable := t.enable, outputs := logged } ∧
          (∀ q, (∀ e ∈ s.plat.enableBits, ¬(e.address = a.toNat ∧ e.source = q)) →
            t.enable.get q = s.enable.get q) ∧
          ∀ e ∈ s.plat.enableBits, e.address = a.toNat →
            (∀ d ∈ s.plat.enableBits, d.address = a.toNat → d.source = e.source → d = e) →
            t.enable.get e.source = v.getLsbD e.bit.toNat

/-- Bus reads. RAM answers with the byte written last, and no other address answers differently for the write
(R65). Each bit of a port read is the latch where the pin is an output, and where it is an input the level that
this read finds at the pin (R339); two reads of a step may find any two levels (R64; U11 and D4). That ports have
bits 5 to 7 is the model's choice (log 36). -/
def Obligations.BusReads : Prop :=
  (∀ (s : State) (a b : Word) (v : Byte) (k : Nat), s.mem.wf = true → s.ramAt a = true →
    (s.write a v).read k b = if b = a then v else s.read k b) ∧
  (∀ (s : State) (a : Word) (k n : Nat), n < 8 →
    (s.plat.spaceAt a = .portData .a → (s.read k a).getLsbD n =
      if s.ddrA.getLsbD n then s.portA.getLsbD n else (s.inputs.levels k .a).getLsbD n) ∧
    (s.plat.spaceAt a = .portData .b → (s.read k a).getLsbD n =
      if s.ddrB.getLsbD n then s.portB.getLsbD n else (s.inputs.levels k .b).getLsbD n)) ∧
  ∀ (s : State) (p : Port) (j k : Nat) (u v : Byte), j ≠ k →
    ∃ e : Inputs, e.levels j p = u ∧ e.levels k p = v ∧
      e.irqPin = s.inputs.irqPin ∧ e.requests = s.inputs.requests ∧ e.reset = s.inputs.reset

/-- R59: what a mixed-width access sees. -/
def Obligations.MixedWidth : Prop :=
  (∀ s : State, s.mem.wf = true → s.ramAt 0x0050#16 = true → s.ramAt 0x0051#16 = true →
    s.hx = 0x1234#16 → ∃ t, exec (.sthx 0x50#8) s = .next t ∧
      (∃ u, exec (.lda (.mem (.dir 0x50#8))) t = .next u ∧ u.a = 0x12#8) ∧
      ∃ u, exec (.lda (.mem (.dir 0x51#8))) t = .next u ∧ u.a = 0x34#8) ∧
  ∀ s : State, s.mem.wf = true → s.ramAt 0x00FF#16 = true → s.ramAt 0x00FE#16 = true →
    s.sp = 0x00FF#16 → s.pc = 0x8123#16 →
    ∀ k, s.pushPC.read k 0x00FF#16 = 0x23#8 ∧ s.pushPC.read k 0x00FE#16 = 0x81#8

/-- R25: the stack pointer wraps. A push at $0000 stores at $0000 and leaves $FFFF; a pull at $FFFF leaves $0000
and reads $0000. -/
def Obligations.StackPointerWraps : Prop :=
  (∀ s : State, s.sp = 0x0000#16 → ∃ t, exec .psha s = .next t ∧ t.sp = 0xFFFF#16 ∧
    t.mem = (s.write 0x0000#16 s.a).mem ∧ t.devices = (s.write 0x0000#16 s.a).devices) ∧
  ∀ s : State, s.sp = 0xFFFF#16 →
    exec .pula s = .next { s with sp := 0x0000#16, a := s.read 0 0x0000#16 }

/-- Effective addresses, as sums of unsigned numbers modulo 2^16, and the operands they name: the table of
R134. -/
def Obligations.EffectiveAddresses : Prop :=
  ∀ s : State,
    let hx := 256 * s.h.toNat + s.x.toNat
    (∀ dd, (s.ea (.dir dd)).toNat = dd.toNat) ∧
    (∀ hhll, s.ea (.ext hhll) = hhll) ∧
    (s.ea .ix).toNat = hx ∧
    (∀ ff, (s.ea (.ix1 ff)).toNat = (hx + ff.toNat) % 65536) ∧
    (∀ eeff, (s.ea (.ix2 eeff)).toNat = (hx + eeff.toNat) % 65536) ∧
    (∀ ff, (s.ea (.sp1 ff)).toNat = (s.sp.toNat + ff.toNat) % 65536) ∧
    (∀ eeff, (s.ea (.sp2 eeff)).toNat = (s.sp.toNat + eeff.toNat) % 65536) ∧
    (∀ dd, (s.cmpEa (.dir dd)).toNat = dd.toNat) ∧
    (∀ ff, (s.cmpEa (.sp1 ff)).toNat = (s.sp.toNat + ff.toNat) % 65536) ∧
    (s.cmpEa .ixInc).toNat = hx ∧
    (∀ ff, (s.cmpEa (.ix1Inc ff)).toNat = (hx + ff.toNat) % 65536) ∧
    (∀ ii, s.operand (.imm ii) = ii) ∧
    (∀ m, s.operand (.mem m) = s.read 0 (s.ea m)) ∧
    (∀ iijj, s.operand16 (.imm iijj) = iijj) ∧
    ∀ dd, (s.operand16 (.dir dd)).toNat =
      256 * (s.read 0 (BitVec.ofNat 16 dd.toNat)).toNat
        + (s.read 1 (BitVec.ofNat 16 (dd.toNat + 1))).toNat

/-! Which instruction writes what -/

/-- Every instruction completes, on every state, and leaves the environment's part and the canonical form of
memory as they were (R303). -/
def Obligations.EveryInstructionCompletes : Prop :=
  ∀ (i : Instr) (s : State), ∃ t, exec i s = .next t ∧ t.environment = s.environment ∧
    (s.mem.wf = true → t.mem.wf = true)

/-- R37, R364: the instructions that write no flag. -/
def Obligations.WritesNoFlag : Prop :=
  ∀ (i : Instr) (s t : State), i.writesNoFlag = true → exec i s = .next t → t.ccr = s.ccr

/-- Each register, each flag and memory are left alone by every instruction that is not in their list (R20, R22, R23,
R24, R28, R31 to R36, R61), the low-power state by all but STOP and WAIT, the CLI window by all but CLI and
TAP. -/
def Obligations.FrameOfEveryInstruction : Prop :=
  ∀ (i : Instr) (s t : State), exec i s = .next t →
    (i.writesA = false → t.a = s.a) ∧ (i.writesX = false → t.x = s.x) ∧
    (i.writesH = false → t.h = s.h) ∧ (i.writesSP = false → t.sp = s.sp) ∧
    (i.writesPC = false → t.pc = s.pc) ∧ (i.writesV = false → t.ccr.v = s.ccr.v) ∧
    (i.writesN = false → t.ccr.n = s.ccr.n) ∧ (i.writesZ = false → t.ccr.z = s.ccr.z) ∧
    (i.writesHf = false → t.ccr.hf = s.ccr.hf) ∧
    (i.writesI = false → t.ccr.i = s.ccr.i) ∧ (i.writesC = false → t.ccr.c = s.ccr.c) ∧
    (i.writesMemory = false → t.mem = s.mem ∧ t.devices = s.devices ∧ t.stored = s.stored) ∧
    (i ≠ .stop → i ≠ .wait → t.power = s.power) ∧
    (i ≠ .cli → i ≠ .tap → t.cliWindow = s.cliWindow)

/-! Data movement -/

/-- LDA, LDX and LDHX: the operand to the register, V cleared, N and Z from the value (R140 to R142). -/
def Obligations.Loads : Prop :=
  ∀ s : State,
    (∀ src, exec (.lda src) s = .next { s with
      a := s.operand src
      ccr := { s.ccr with
        v := false, n := decide (128 ≤ (s.operand src).toNat), z := decide ((s.operand src).toNat = 0) } }) ∧
    (∀ src, exec (.ldx src) s = .next { s with
      x := s.operand src
      ccr := { s.ccr with
        v := false, n := decide (128 ≤ (s.operand src).toNat), z := decide ((s.operand src).toNat = 0) } }) ∧
    ∀ src, exec (.ldhx src) s = .next { s with
      h := BitVec.ofNat 8 ((s.operand16 src).toNat / 256), x := BitVec.ofNat 8 (s.operand16 src).toNat
      ccr := { s.ccr with
        v := false, n := decide (32768 ≤ (s.operand16 src).toNat)
        z := decide ((s.operand16 src).toNat = 0) } }

/-- STA, STX and STHX: the register stored at the effective address and nowhere else, V cleared, N and Z from
the value (R143 to R145). -/
def Obligations.Stores : Prop :=
  ∀ s : State, s.mem.wf = true →
    (∀ m, ∃ t, exec (.sta m) s = .next t ∧ s.StoresExactly t [(s.ea m, s.a)] ∧
      t.cpu = { s.cpu with ccr := { s.ccr with
        v := false, n := decide (128 ≤ s.a.toNat), z := decide (s.a.toNat = 0) } }) ∧
    (∀ m, ∃ t, exec (.stx m) s = .next t ∧ s.StoresExactly t [(s.ea m, s.x)] ∧
      t.cpu = { s.cpu with ccr := { s.ccr with
        v := false, n := decide (128 ≤ s.x.toNat), z := decide (s.x.toNat = 0) } }) ∧
    ∀ dd, ∃ t, exec (.sthx dd) s = .next t ∧
      s.StoresExactly t [(BitVec.ofNat 16 dd.toNat, s.h), (BitVec.ofNat 16 (dd.toNat + 1), s.x)] ∧
      t.cpu = { s.cpu with ccr := { s.ccr with
        v := false, n := decide (128 ≤ s.h.toNat), z := decide (s.h.toNat = 0 ∧ s.x.toNat = 0) } }

/-- R146 to R151: PSHA, PSHH, PSHX store at SP, then SP goes down by one; PULA, PULH, PULX: SP goes up by one, then
the byte there is read; opcodes, lengths and cycles. -/
def Obligations.PushesAndPulls : Prop :=
  encode .psha = [0x87#8] ∧ encode .pshh = [0x8B#8] ∧ encode .pshx = [0x89#8] ∧
  encode .pula = [0x86#8] ∧ encode .pulh = [0x8A#8] ∧ encode .pulx = [0x88#8] ∧
  (∀ i ∈ [Instr.psha, .pshh, .pshx, .pula, .pulh, .pulx], i.cycles = 2) ∧
  ∀ s : State,
    (s.mem.wf = true →
      let down := { s.cpu with sp := BitVec.ofInt 16 (s.sp.toNat - 1) }
      (∃ t, exec .psha s = .next t ∧ s.StoresExactly t [(s.sp, s.a)] ∧ t.cpu = down) ∧
      (∃ t, exec .pshh s = .next t ∧ s.StoresExactly t [(s.sp, s.h)] ∧ t.cpu = down) ∧
      ∃ t, exec .pshx s = .next t ∧ s.StoresExactly t [(s.sp, s.x)] ∧ t.cpu = down) ∧
    let up := BitVec.ofNat 16 (s.sp.toNat + 1)
    exec .pula s = .next { s with sp := up, a := s.read 0 up } ∧
    exec .pulh s = .next { s with sp := up, h := s.read 0 up } ∧
    exec .pulx s = .next { s with sp := up, x := s.read 0 up }

/-- R154 to R157: TAX, TXA, TXS, TSX; opcodes, lengths and cycles. -/
def Obligations.Transfers : Prop :=
  encode .tax = [0x97#8] ∧ encode .txa = [0x9F#8] ∧ encode .txs = [0x94#8] ∧ encode .tsx = [0x95#8] ∧
  Instr.tax.cycles = 1 ∧ Instr.txa.cycles = 1 ∧ Instr.txs.cycles = 2 ∧ Instr.tsx.cycles = 2 ∧
  ∀ s : State,
    exec .tax s = .next { s with x := s.a } ∧
    exec .txa s = .next { s with a := s.x } ∧
    exec .txs s = .next { s with sp := BitVec.ofInt 16 (256 * s.h.toNat + s.x.toNat - 1) } ∧
    exec .tsx s = .next { s with
      h := BitVec.ofNat 8 ((s.sp.toNat + 1) / 256), x := BitVec.ofNat 8 (s.sp.toNat + 1) }

/-- The CCR as a byte (R30), which TPA reads (R153) and TAP writes (R152): V in bit 7, ones in bits 6 and 5, Hf, I,
N, Z, C in bits 4 to 0; writing bits 6 and 5 does nothing. TAP opens the CLI window exactly when it takes I from
1 to 0 (R320, R327). -/
def Obligations.ConditionCodeByte : Prop :=
  ∀ s : State,
    (∃ t, exec .tpa s = .next t ∧ t = { s with a := t.a } ∧ t.a.toNat =
      128 * s.ccr.v.toNat + 64 + 32 + 16 * s.ccr.hf.toNat + 8 * s.ccr.i.toNat + 4 * s.ccr.n.toNat
        + 2 * s.ccr.z.toNat + s.ccr.c.toNat) ∧
    exec .tap s = .next { s with
      ccr := {
        v := decide (s.a.toNat / 128 % 2 = 1), hf := decide (s.a.toNat / 16 % 2 = 1)
        i := decide (s.a.toNat / 8 % 2 = 1), n := decide (s.a.toNat / 4 % 2 = 1)
        z := decide (s.a.toNat / 2 % 2 = 1), c := decide (s.a.toNat % 2 = 1) }
      cliWindow := decide (s.ccr.i = true ∧ s.a.toNat / 8 % 2 = 0) }

/-- MOV: the source byte to the destination and nowhere else, H:X incremented in the X+ forms, V cleared, N and
Z from the byte moved (R129 to R133, R158). -/
def Obligations.Moves : Prop :=
  ∀ s : State, s.mem.wf = true →
    let dir := fun dd : Byte => BitVec.ofNat 16 dd.toNat
    let hx := 256 * s.h.toNat + s.x.toNat
    let moved := fun v : Byte => { s.ccr with
      v := false, n := decide (128 ≤ v.toNat), z := decide (v.toNat = 0) }
    let up := { s.cpu with h := BitVec.ofNat 8 ((hx + 1) / 256), x := BitVec.ofNat 8 (hx + 1) }
    (∀ ii dst, ∃ t, exec (.mov (.immDir ii dst)) s = .next t ∧ s.StoresExactly t [(dir dst, ii)] ∧
      t.cpu = { s.cpu with ccr := moved ii }) ∧
    (∀ src dst, ∃ t, exec (.mov (.dirDir src dst)) s = .next t ∧
      s.StoresExactly t [(dir dst, s.read 0 (dir src))] ∧
      t.cpu = { s.cpu with ccr := moved (s.read 0 (dir src)) }) ∧
    (∀ src, ∃ t, exec (.mov (.dirIxInc src)) s = .next t ∧
      s.StoresExactly t [(BitVec.ofNat 16 hx, s.read 0 (dir src))] ∧
      t.cpu = { up with ccr := moved (s.read 0 (dir src)) }) ∧
    ∀ dst, ∃ t, exec (.mov (.ixIncDir dst)) s = .next t ∧
      s.StoresExactly t [(dir dst, s.read 0 (BitVec.ofNat 16 hx))] ∧
      t.cpu = { up with ccr := moved (s.read 0 (BitVec.ofNat 16 hx)) }

/-! Arithmetic -/

/-- R170: `Add8` and its flags, in both forms the rule gives them. -/
def Obligations.AdditionFlags : Prop :=
  ∀ (f : CCR) (a m : Byte) (c : Bool),
    let r := addResult a m c
    let g := f.addFlags a m c
    r.toNat = (a.toNat + m.toNat + c.toNat) % 256 ∧
    g.c = decide (a.toNat + m.toNat + c.toNat > 255) ∧
    g.hf = decide (a.toNat % 16 + m.toNat % 16 + c.toNat > 15) ∧
    g.v = (a.getLsbD 7 && m.getLsbD 7 && !r.getLsbD 7 || !a.getLsbD 7 && !m.getLsbD 7 && r.getLsbD 7) ∧
    g.v = decide (a.getLsbD 7 = m.getLsbD 7 ∧ r.getLsbD 7 ≠ a.getLsbD 7) ∧
    g.n = r.getLsbD 7 ∧ g.z = decide (r = 0#8) ∧ g.i = f.i ∧
    g.c = (a.getLsbD 7 && m.getLsbD 7 || m.getLsbD 7 && !r.getLsbD 7 || !r.getLsbD 7 && a.getLsbD 7) ∧
    g.hf = (a.getLsbD 3 && m.getLsbD 3 || m.getLsbD 3 && !r.getLsbD 3 || !r.getLsbD 3 && a.getLsbD 3)

/-- R171: `Sub8` and its flags, in both forms the rule gives them; Hf is not written. -/
def Obligations.SubtractionFlags : Prop :=
  ∀ (f : CCR) (a m : Byte) (c : Bool),
    let r := subResult a m c
    let g := f.subFlags a m c
    r = BitVec.ofInt 8 (a.toNat - m.toNat - c.toNat) ∧
    g.c = decide (m.toNat + c.toNat > a.toNat) ∧
    g.v = (a.getLsbD 7 && !m.getLsbD 7 && !r.getLsbD 7 || !a.getLsbD 7 && m.getLsbD 7 && r.getLsbD 7) ∧
    g.v = decide (a.getLsbD 7 ≠ m.getLsbD 7 ∧ r.getLsbD 7 = m.getLsbD 7) ∧
    g.n = r.getLsbD 7 ∧ g.z = decide (r = 0#8) ∧ g.hf = f.hf ∧ g.i = f.i ∧
    g.c = (!a.getLsbD 7 && m.getLsbD 7 || m.getLsbD 7 && r.getLsbD 7 || r.getLsbD 7 && !a.getLsbD 7)

/-- ADD and ADC: the sum of A, the operand and, for ADC, the carry, with C the carry out of bit 7, Hf the carry
out of bit 3 and V the signed overflow (R170, R173, R174). -/
def Obligations.Additions : Prop :=
  ∀ (s : State) (src : Src),
    let m := s.operand src
    let flags := fun c : Nat => { s.ccr with
      v := decide (s.a.toInt + m.toInt + c < -128 ∨ 127 < s.a.toInt + m.toInt + c)
      hf := decide (15 < s.a.toNat % 16 + m.toNat % 16 + c)
      n := decide (128 ≤ (s.a.toNat + m.toNat + c) % 256)
      z := decide ((s.a.toNat + m.toNat + c) % 256 = 0)
      c := decide (255 < s.a.toNat + m.toNat + c) }
    exec (.add src) s = .next { s with a := BitVec.ofNat 8 (s.a.toNat + m.toNat), ccr := flags 0 } ∧
    exec (.adc src) s = .next { s with
      a := BitVec.ofNat 8 (s.a.toNat + m.toNat + s.ccr.c.toNat), ccr := flags s.ccr.c.toNat }

/-- SUB, SBC, CMP, CPX and CPHX: the difference, with C the borrow and V the signed overflow; the compares write the
flags alone, CPHX from all 16 bits (R171, R172, R175, R176, R183 to R185). -/
def Obligations.Subtractions : Prop :=
  (∀ (s : State) (src : Src),
    let m := s.operand src
    let flags := fun (a : Byte) (c : Nat) => { s.ccr with
      v := decide (a.toInt - m.toInt - c < -128 ∨ 127 < a.toInt - m.toInt - c)
      n := decide (128 ≤ ((a.toNat : Int) - m.toNat - c) % 256)
      z := decide (((a.toNat : Int) - m.toNat - c) % 256 = 0)
      c := decide (a.toNat < m.toNat + c) }
    exec (.sub src) s = .next { s with
      a := BitVec.ofInt 8 (s.a.toNat - m.toNat), ccr := flags s.a 0 } ∧
    exec (.sbc src) s = .next { s with
      a := BitVec.ofInt 8 (s.a.toNat - m.toNat - s.ccr.c.toNat), ccr := flags s.a s.ccr.c.toNat } ∧
    exec (.cmp src) s = .next { s with ccr := flags s.a 0 } ∧
    exec (.cpx src) s = .next { s with ccr := flags s.x 0 }) ∧
  ∀ (s : State) (src : Src16),
    let hx := BitVec.ofNat 16 (256 * s.h.toNat + s.x.toNat)
    let m := s.operand16 src
    exec (.cphx src) s = .next { s with ccr := { s.ccr with
      v := decide (hx.toInt - m.toInt < -32768 ∨ 32767 < hx.toInt - m.toInt)
      n := decide (32768 ≤ ((hx.toNat : Int) - m.toNat) % 65536)
      z := decide (hx = m), c := decide (hx.toNat < m.toNat) } }

/-- MUL: X:A is the unsigned product; Hf and C are cleared (R177). DIV: with H < X, C is cleared, A is the
quotient and H the remainder, so that A times X plus H is the dividend, and Z says whether the quotient is 0.
With H >= X, which is the rule's overflow (X = 0 included), C is set; A, H and Z are any values, and nothing else
changes (R178, U2; log 19). -/
def Obligations.MultiplyDivide : Prop :=
  ∀ s : State,
    let d := 256 * s.h.toNat + s.a.toNat
    exec .mul s = .next { s with
      x := BitVec.ofNat 8 (s.x.toNat * s.a.toNat / 256), a := BitVec.ofNat 8 (s.x.toNat * s.a.toNat)
      ccr := { s.ccr with hf := false, c := false } } ∧
    (s.x.toNat ≤ s.h.toNat ↔ s.x.toNat = 0 ∨ 255 < d / s.x.toNat) ∧
    ∃ t, exec .div s = .next t ∧
      t = { s with a := t.a, h := t.h, ccr := { s.ccr with c := t.ccr.c, z := t.ccr.z } } ∧
      t.ccr.c = decide (s.x.toNat ≤ s.h.toNat) ∧
      (s.h.toNat < s.x.toNat → t.a.toNat = d / s.x.toNat ∧ t.h.toNat = d % s.x.toNat ∧
        t.a.toNat * s.x.toNat + t.h.toNat = d ∧ t.ccr.z = decide (t.a.toNat = 0))

/-- INC and DEC on memory, A and X: one more or one less modulo 256, V when $7F or $80 was there, C and H stay
(R179, R180). -/
def Obligations.IncrementDecrement : Prop :=
  SingleOperand .inc .inca .incx (fun _ v => BitVec.ofNat 8 (v.toNat + 1))
    (fun f v => { f with
      v := decide (v.toInt = 127), n := decide (127 ≤ v.toNat ∧ v.toNat < 255)
      z := decide (v.toNat = 255) }) ∧
  SingleOperand .dec .deca .decx (fun _ v => BitVec.ofInt 8 (v.toNat - 1))
    (fun f v => { f with
      v := decide (v.toInt = -128), n := decide (v.toNat = 0 ∨ 128 < v.toNat)
      z := decide (v.toNat = 1) })

/-- COM and NEG on memory, A and X: $FF - v and 0 - v (R181, R182). -/
def Obligations.ComplementNegate : Prop :=
  SingleOperand .com .coma .comx (fun _ v => BitVec.ofNat 8 (255 - v.toNat))
    (fun f v => { f with
      v := false, n := decide (v.toNat < 128), z := decide (v.toNat = 255), c := true }) ∧
  SingleOperand .neg .nega .negx (fun _ v => BitVec.ofInt 8 (-v.toNat))
    (fun f v => { f with
      v := decide (v.toInt = -128), n := decide (0 < v.toNat ∧ v.toNat ≤ 128)
      z := decide (v.toNat = 0), c := decide (v.toNat ≠ 0) })

/-- CLR on memory (one write, no read), CLRA, CLRX, CLRH, and TST on memory, A and X, which writes the flags
alone (R186, R187). -/
def Obligations.ClearTest : Prop :=
  ∀ s : State,
    let cleared := { s.ccr with v := false, n := false, z := true }
    let tested := fun v : Byte => { s.ccr with
      v := false, n := decide (128 ≤ v.toNat), z := decide (v.toNat = 0) }
    (∀ m, s.mem.wf = true → ∃ t, exec (.clr m) s = .next t ∧ s.StoresExactly t [(s.ea m, 0x00#8)] ∧
      t.cpu = { s.cpu with ccr := cleared }) ∧
    exec .clra s = .next { s with a := 0x00#8, ccr := cleared } ∧
    exec .clrx s = .next { s with x := 0x00#8, ccr := cleared } ∧
    exec .clrh s = .next { s with h := 0x00#8, ccr := cleared } ∧
    (∀ m, exec (.tst m) s = .next { s with ccr := tested (s.read 0 (s.ea m)) }) ∧
    exec .tsta s = .next { s with ccr := tested s.a } ∧
    exec .tstx s = .next { s with ccr := tested s.x }

/-- R188, R189: AIS and AIX add the signed immediate to SP and to H:X modulo 2^16, the carry of AIX reaching H,
and write no flag; opcodes, lengths and cycles. -/
def Obligations.AddImmediateToPointer : Prop :=
  (∀ ii, encode (.ais ii) = [0xA7#8, ii] ∧ (Instr.ais ii).cycles = 2) ∧
  (∀ ii, encode (.aix ii) = [0xAF#8, ii] ∧ (Instr.aix ii).cycles = 2) ∧
  ∀ (s : State) (ii : Byte),
    exec (.ais ii) s = .next { s with sp := BitVec.ofInt 16 (s.sp.toNat + ii.toInt) } ∧
    ∃ t, exec (.aix ii) s = .next t ∧ t = { s with h := t.h, x := t.x } ∧
      (256 * t.h.toNat + t.x.toNat : Int) = (256 * s.h.toNat + s.x.toNat + ii.toInt) % 65536

/-- The carry chain: ADD of the low bytes, then ADC of the high bytes, gives the 16-bit sum, the carry out of
bit 15 in C and the signed overflow in V; the same for SUB and SBC with the borrow. -/
def Obligations.CarryChains : Prop :=
  ∀ (s : State) (p q : Word),
    let lo := fun w : Word => BitVec.ofNat 8 w.toNat
    let hi := fun w : Word => BitVec.ofNat 8 (w.toNat / 256)
    (∃ t u, exec (.add (.imm (lo q))) { s with a := lo p } = .next t ∧
      exec (.adc (.imm (hi q))) { t with a := hi p } = .next u ∧
      256 * u.a.toNat + t.a.toNat = (p.toNat + q.toNat) % 65536 ∧
      u.ccr.c = decide (65535 < p.toNat + q.toNat) ∧
      u.ccr.v = decide (p.toInt + q.toInt < -32768 ∨ 32767 < p.toInt + q.toInt)) ∧
    ∃ t u, exec (.sub (.imm (lo q))) { s with a := lo p } = .next t ∧
      exec (.sbc (.imm (hi q))) { t with a := hi p } = .next u ∧
      (256 * u.a.toNat + t.a.toNat : Int) = (p.toNat - q.toNat : Int) % 65536 ∧
      u.ccr.c = decide (p.toNat < q.toNat) ∧
      u.ccr.v = decide (p.toInt - q.toInt < -32768 ∨ 32767 < p.toInt - q.toInt)

/-! Logic, bits, shifts -/

/-- AND, ORA, EOR and BIT, bit by bit: V cleared, N and Z from the result, BIT writes the flags alone (R200 to
R203). -/
def Obligations.Logic : Prop :=
  ∀ (s : State) (src : Src),
    let m := s.operand src
    let flags := fun r : Byte => { s.ccr with
      v := false, n := decide (128 ≤ r.toNat), z := decide (r.toNat = 0) }
    ∃ rAnd rOr rXor : Byte,
      (∀ n, n < 8 → rAnd.getLsbD n = (s.a.getLsbD n && m.getLsbD n) ∧
        rOr.getLsbD n = (s.a.getLsbD n || m.getLsbD n) ∧
        rXor.getLsbD n = (s.a.getLsbD n != m.getLsbD n)) ∧
      exec (.and src) s = .next { s with a := rAnd, ccr := flags rAnd } ∧
      exec (.ora src) s = .next { s with a := rOr, ccr := flags rOr } ∧
      exec (.eor src) s = .next { s with a := rXor, ccr := flags rXor } ∧
      exec (.bit src) s = .next { s with ccr := flags rAnd }

/-- BCLR and BSET: bit n of the byte becomes 0 or 1, the other seven bits are written back as read, no flag is
written (R204, R205). -/
def Obligations.BitWrites : Prop :=
  ∀ (s : State) (n : BitVec 3) (dd : Byte), s.mem.wf = true →
    let ea := BitVec.ofNat 16 dd.toNat
    (∃ t r, exec (.bclr n dd) s = .next t ∧ t.cpu = s.cpu ∧ s.StoresExactly t [(ea, r)] ∧
      ∀ j, j < 8 → r.getLsbD j = if j = n.toNat then false else (s.read 0 ea).getLsbD j) ∧
    ∃ t r, exec (.bset n dd) s = .next t ∧ t.cpu = s.cpu ∧ s.StoresExactly t [(ea, r)] ∧
      ∀ j, j < 8 → r.getLsbD j = if j = n.toNat then true else (s.read 0 ea).getLsbD j

/-- R206, R207, R209: CLC, SEC and SEI write their flag alone; opcodes, lengths and cycles. -/
def Obligations.FlagInstructions : Prop :=
  encode .clc = [0x98#8] ∧ encode .sec = [0x99#8] ∧ encode .sei = [0x9B#8] ∧
  Instr.clc.cycles = 1 ∧ Instr.sec.cycles = 1 ∧ Instr.sei.cycles = 2 ∧
  ∀ s : State,
    exec .clc s = .next { s with ccr := { s.ccr with c := false } } ∧
    exec .sec s = .next { s with ccr := { s.ccr with c := true } } ∧
    exec .sei s = .next { s with ccr := { s.ccr with i := true } } ∧
    ∀ t : State, t.ccr.i = true → t.interrupt = none

/-- CLI clears I alone, and where I was 1 opens the CLI window, in which a part with CliDelay = 1 takes no
interrupt at the next boundary (R208, R320, R327). -/
def Obligations.ClearInterruptMask : Prop :=
  ∀ s : State,
    exec .cli s = .next { s with ccr := { s.ccr with i := false }, cliWindow := s.ccr.i } ∧
    (s.ccr.i = true → s.power = .running → s.plat.cliDelay = true →
      ∃ t, exec .cli s = .next t ∧ t.arrive.interrupt = none)

/-- The left shifts on memory, A and X: LSL doubles, ROL doubles and takes in C; bit 7 goes to C, V is N xor C
(R222, R224, R227). -/
def Obligations.LeftShifts : Prop :=
  SingleOperand .lsl .lsla .lslx (fun _ v => BitVec.ofNat 8 (2 * v.toNat))
    (fun f v => { f with
      c := decide (128 ≤ v.toNat), n := decide (64 ≤ v.toNat % 128), z := decide (v.toNat % 128 = 0)
      v := decide (128 ≤ v.toNat) != decide (64 ≤ v.toNat % 128) }) ∧
  SingleOperand .rol .rola .rolx (fun f v => BitVec.ofNat 8 (2 * v.toNat + f.c.toNat))
    (fun f v => { f with
      c := decide (128 ≤ v.toNat), n := decide (64 ≤ v.toNat % 128)
      z := decide (v.toNat % 128 = 0 ∧ f.c = false)
      v := decide (128 ≤ v.toNat) != decide (64 ≤ v.toNat % 128) })

/-- The right shifts on memory, A and X: LSR halves the unsigned number, ASR the signed one, rounding toward
minus infinity, ROR takes C in at bit 7; bit 0 goes to C, V is N xor C (R221, R223, R225, R227). -/
def Obligations.RightShifts : Prop :=
  SingleOperand .lsr .lsra .lsrx (fun _ v => BitVec.ofNat 8 (v.toNat / 2))
    (fun f v => { f with
      c := decide (v.toNat % 2 = 1), n := false, z := decide (v.toNat < 2)
      v := decide (v.toNat % 2 = 1) }) ∧
  SingleOperand .asr .asra .asrx (fun _ v => BitVec.ofInt 8 (v.toInt / 2))
    (fun f v => { f with
      c := decide (v.toNat % 2 = 1), n := decide (v.toInt < 0), z := decide (v.toNat < 2)
      v := decide (v.toNat % 2 = 1) != decide (v.toInt < 0) }) ∧
  SingleOperand .ror .rora .rorx (fun f v => BitVec.ofNat 8 (v.toNat / 2 + 128 * f.c.toNat))
    (fun f v => { f with
      c := decide (v.toNat % 2 = 1), n := f.c, z := decide (v.toNat < 2 ∧ f.c = false)
      v := decide (v.toNat % 2 = 1) != f.c })

/-- Nine ROLs restore the operand and C (R224), and ROR undoes ROL (R225): on A, on X, and on a byte of RAM, where
every byte of memory then reads as before. -/
def Obligations.RotatesInvert : Prop :=
  ∀ s : State,
    let again := fun (i : Instr) (r : Result) => match r with
      | .next t => exec i t
      | .fault e => .fault e
      | .refused e => .refused e
    (∃ t, Nat.iterate (again .rola) 9 (.next s) = .next t ∧ t.a = s.a ∧ t.ccr.c = s.ccr.c) ∧
    (∃ t, Nat.iterate (again .rolx) 9 (.next s) = .next t ∧ t.x = s.x ∧ t.ccr.c = s.ccr.c) ∧
    (∃ t u, exec .rola s = .next t ∧ exec .rora t = .next u ∧ u.a = s.a ∧ u.ccr.c = s.ccr.c) ∧
    (∃ t u, exec .rolx s = .next t ∧ exec .rorx t = .next u ∧ u.x = s.x ∧ u.ccr.c = s.ccr.c) ∧
    ∀ m, s.mem.wf = true → s.ramAt (s.ea m) = true →
      (∃ t, Nat.iterate (again (.rol m)) 9 (.next s) = .next t ∧ t.ccr.c = s.ccr.c ∧
        ∀ n, t.mem.read n = s.mem.read n) ∧
      ∃ t u, exec (.rol m) s = .next t ∧ exec (.ror m) t = .next u ∧ u.ccr.c = s.ccr.c ∧
        ∀ n, u.mem.read n = s.mem.read n

/-! Control -/

/-- Every relative branch: to the target exactly when its condition holds, to the next instruction otherwise, and
nothing but PC changes (R126, R240 to R262). BRSET and BRCLR go by bit n of the byte, which C takes (R263, R264). -/
def Obligations.Branches : Prop :=
  (∀ (s : State) (rr : Byte),
    let f := s.ccr
    let goes := fun (i : Instr) (cond : Bool) =>
      exec i s = .next { s with pc := if cond then s.branchTarget rr else s.pc }
    goes (.bra rr) true ∧ goes (.brn rr) false ∧
    goes (.bcc rr) (decide (f.c = false)) ∧ goes (.bcs rr) (decide (f.c = true)) ∧
    goes (.bne rr) (decide (f.z = false)) ∧ goes (.beq rr) (decide (f.z = true)) ∧
    goes (.bhcc rr) (decide (f.hf = false)) ∧ goes (.bhcs rr) (decide (f.hf = true)) ∧
    goes (.bhi rr) (decide (f.c = false ∧ f.z = false)) ∧ goes (.bls rr) (decide (f.c = true ∨ f.z = true)) ∧
    goes (.bpl rr) (decide (f.n = false)) ∧ goes (.bmi rr) (decide (f.n = true)) ∧
    goes (.bmc rr) (decide (f.i = false)) ∧ goes (.bms rr) (decide (f.i = true)) ∧
    goes (.bih rr) (decide (s.inputs.irqPinLater = true)) ∧
    goes (.bil rr) (decide (s.inputs.irqPinLater = false)) ∧
    goes (.bge rr) (decide (f.n = f.v)) ∧ goes (.blt rr) (decide (f.n ≠ f.v)) ∧
    goes (.bgt rr) (decide (f.z = false ∧ f.n = f.v)) ∧ goes (.ble rr) (decide (f.z = true ∨ f.n ≠ f.v))) ∧
  ∀ (s : State) (n : BitVec 3) (dd rr : Byte),
    let b := (s.read 0 (BitVec.ofNat 16 dd.toNat)).getLsbD n.toNat
    exec (.brset n dd rr) s = .next { s with
      ccr := { s.ccr with c := b }, pc := if b then s.branchTarget rr else s.pc } ∧
    exec (.brclr n dd rr) s = .next { s with
      ccr := { s.ccr with c := b }, pc := if b then s.pc else s.branchTarget rr }

/-- A compare, then a branch: the unsigned and signed orders (R183, R247 to R260). After CMP of A with m each
branch goes to its target exactly when A and m are in the relation of its name. -/
def Obligations.CompareAndBranch : Prop :=
  ∀ (s : State) (src : Src) (rr : Byte),
    let a := s.a
    let m := s.operand src
    ∃ t, exec (.cmp src) s = .next t ∧
      let goes := fun (i : Instr) (cond : Bool) =>
        exec i t = .next { t with pc := if cond then s.branchTarget rr else s.pc }
      goes (.beq rr) (decide (a = m)) ∧ goes (.bne rr) (decide (a ≠ m)) ∧
      goes (.bcs rr) (decide (a.toNat < m.toNat)) ∧ goes (.bcc rr) (decide (m.toNat ≤ a.toNat)) ∧
      goes (.bhi rr) (decide (m.toNat < a.toNat)) ∧ goes (.bls rr) (decide (a.toNat ≤ m.toNat)) ∧
      goes (.blt rr) (decide (a.toInt < m.toInt)) ∧ goes (.bge rr) (decide (m.toInt ≤ a.toInt)) ∧
      goes (.bgt rr) (decide (m.toInt < a.toInt)) ∧ goes (.ble rr) (decide (a.toInt ≤ m.toInt))

/-- CBEQ, CBEQA and CBEQX: the branch on equality; H:X goes up by one in the + forms whichever way it goes (R265).
DBNZ, DBNZA and DBNZX: one less, and the branch unless it became 0, that is unless it was 1 (R266). No flag
changes. The offset byte of DBNZ on memory, which lies right before the next instruction, is fetched after the
store (R17; D4, D9; log 37): where the store changes what is read there the branch goes by that byte, and so,
where the counter is RAM, by the decremented counter exactly when it is its own offset byte. -/
def Obligations.LoopBranches : Prop :=
  ∀ (s : State) (rr : Byte),
    let hx := 256 * s.h.toNat + s.x.toNat
    let go := fun b : Bool => if b then s.branchTarget rr else s.pc
    let up := { s with h := BitVec.ofNat 8 ((hx + 1) / 256), x := BitVec.ofNat 8 (hx + 1) }
    let less := fun v : Byte => BitVec.ofInt 8 (v.toNat - 1)
    (∀ dd, exec (.cbeq (.dir dd) rr) s = .next { s with
      pc := go (decide (s.a = s.read 0 (BitVec.ofNat 16 dd.toNat))) }) ∧
    (∀ ff, exec (.cbeq (.sp1 ff) rr) s = .next { s with
      pc := go (decide (s.a = s.read 0 (BitVec.ofNat 16 (s.sp.toNat + ff.toNat)))) }) ∧
    exec (.cbeq .ixInc rr) s = .next { up with
      pc := go (decide (s.a = s.read 0 (BitVec.ofNat 16 hx))) } ∧
    (∀ ff, exec (.cbeq (.ix1Inc ff) rr) s = .next { up with
      pc := go (decide (s.a = s.read 0 (BitVec.ofNat 16 (hx + ff.toNat)))) }) ∧
    (∀ ii, exec (.cbeqa ii rr) s = .next { s with pc := go (decide (s.a = ii)) }) ∧
    (∀ ii, exec (.cbeqx ii rr) s = .next { s with pc := go (decide (s.x = ii)) }) ∧
    (∀ m, s.mem.wf = true → ∃ t, exec (.dbnz m rr) s = .next t ∧
      let v := s.read 0 (s.ea m)
      let last := s.pc - 1
      let fetched := (s.write (s.ea m) (less v)).read m.offsetRead last
      let offset := if fetched = s.read m.offsetRead last then rr else fetched
      t.cpu = { s.cpu with pc := if v.toNat ≠ 1 then s.branchTarget offset else s.pc } ∧
      (s.ramAt (s.ea m) = true → offset = if s.ea m = last then less v else rr) ∧
      s.StoresExactly t [(s.ea m, less v)]) ∧
    exec (.dbnza rr) s = .next { s with a := less s.a, pc := go (decide (s.a.toNat ≠ 1)) } ∧
    exec (.dbnzx rr) s = .next { s with x := less s.x, pc := go (decide (s.x.toNat ≠ 1)) }

/-- JMP, JSR, BSR and RTS: the target, and the return address on the stack, its low byte at SP and its high byte
below (R267 to R270). -/
def Obligations.JumpsAndCalls : Prop :=
  ∀ s : State, s.mem.wf = true →
    let frame : List (Word × Byte) :=
      [(s.sp, BitVec.ofNat 8 s.pc.toNat), (s.sp - 1, BitVec.ofNat 8 (s.pc.toNat / 256))]
    (∀ m, exec (.jmp m) s = .next { s with pc := s.ea m }) ∧
    (∀ m, ∃ t, exec (.jsr m) s = .next t ∧ s.StoresExactly t frame ∧
      t.cpu = { s.cpu with sp := s.sp - 2, pc := s.ea m }) ∧
    (∀ rr, ∃ t, exec (.bsr rr) s = .next t ∧ s.StoresExactly t frame ∧
      t.cpu = { s.cpu with sp := s.sp - 2, pc := s.branchTarget rr }) ∧
    exec .rts s = .next { s with
      sp := s.sp + 2
      pc := BitVec.ofNat 16 (256 * (s.read 0 (s.sp + 1)).toNat + (s.read 1 (s.sp + 2)).toNat) }

/-- A call and its return: after JSR or BSR, RTS comes back to the instruction after the call with the stack
pointer as it was, where the two stack bytes are RAM. -/
def Obligations.CallReturns : Prop :=
  ∀ (s : State) (i : Instr), ((∃ m, i = .jsr m) ∨ ∃ rr, i = .bsr rr) → s.mem.wf = true →
    s.ramAt s.sp = true → s.ramAt (s.sp - 1) = true →
    ∃ t u, exec i s = .next t ∧ exec .rts t = .next u ∧ u.cpu = s.cpu

/-- SWI is the interrupt entry through $FFFC, whatever I is; RTI pulls CCR, A, X, PCH and PCL, bits 6 and 5 of
the CCR byte ignored, and leaves H (R271, R272, R324). -/
def Obligations.SoftwareInterruptAndReturn : Prop :=
  ∀ s : State,
    exec .swi s = .next (s.takeInterrupt 0xFFFC#16) ∧
    let c := (s.read 0 (s.sp + 1)).toNat
    exec .rti s = .next { s with
      ccr := {
        v := decide (c / 128 % 2 = 1), hf := decide (c / 16 % 2 = 1), i := decide (c / 8 % 2 = 1)
        n := decide (c / 4 % 2 = 1), z := decide (c / 2 % 2 = 1), c := decide (c % 2 = 1) }
      a := s.read 1 (s.sp + 2), x := s.read 2 (s.sp + 3)
      pc := BitVec.ofNat 16 (256 * (s.read 3 (s.sp + 4)).toNat + (s.read 4 (s.sp + 5)).toNat)
      sp := s.sp + 5 }

/-- An interrupt is transparent: RTI right after an entry, by SWI or by hardware, brings back every register and
flag, where the five stack bytes are RAM; of memory only those five bytes may have changed. -/
def Obligations.InterruptTransparent : Prop :=
  ∀ s : State, s.mem.wf = true → (∀ k : Nat, k < 5 → s.ramAt (s.sp - BitVec.ofNat 16 k) = true) →
    let outside := fun u : State =>
      ∀ a : Word, (∀ k : Nat, k < 5 → a ≠ s.sp - BitVec.ofNat 16 k) →
        u.mem.read a.toNat = s.mem.read a.toNat
    (∃ t u, exec .swi s = .next t ∧ exec .rti t = .next u ∧ u.cpu = s.cpu ∧ outside u) ∧
    ∀ q, ∃ u, exec .rti (s.takeHardware q) = .next u ∧
      u.cpu = { s.cpu with power := .running, cliWindow := false } ∧ outside u

/-! BCD and special -/

/-- DAA by the nine rows of R290: A plus the row's byte, the row's C, N and Z from the result, Hf kept, V any
value. Outside the table A, C, N, Z and V are any values, and nothing else changes. -/
def Obligations.DecimalAdjustTable : Prop :=
  ∀ s : State,
    let hi := s.a.toNat / 16
    let lo := s.a.toNat % 16
    let row := fun (c : Bool) (h1 h2 : Nat) (hf : Bool) (l1 l2 k : Nat) (c' : Bool) =>
      s.ccr.c = c → h1 ≤ hi → hi ≤ h2 → s.ccr.hf = hf → l1 ≤ lo → lo ≤ l2 →
        ∃ v, exec .daa s = .next { s with
          a := BitVec.ofNat 8 (s.a.toNat + k)
          ccr := { s.ccr with
            c := c', v := v, n := decide (128 ≤ (s.a.toNat + k) % 256)
            z := decide ((s.a.toNat + k) % 256 = 0) } }
    row false 0 9 false 0 9 0x00 false ∧ row false 0 8 false 10 15 0x06 false ∧
    row false 0 9 true 0 3 0x06 false ∧ row false 10 15 false 0 9 0x60 true ∧
    row false 9 15 false 10 15 0x66 true ∧ row false 10 15 true 0 3 0x66 true ∧
    row true 0 2 false 0 9 0x60 true ∧ row true 0 2 false 10 15 0x66 true ∧
    row true 0 3 true 0 3 0x66 true ∧
    ∃ a c n z v, exec .daa s = .next { s with
      a := a, ccr := { s.ccr with c := c, n := n, z := z, v := v } }

/-- DAA adjusts: after ADD or ADC of two packed BCD bytes, DAA leaves the packed BCD of the decimal sum in A and
the decimal carry in C (R290). -/
def Obligations.DecimalAdjustCorrect : Prop :=
  ∀ (s : State) (p q : Nat), p < 100 → q < 100 →
    let bcd := fun n : Nat => BitVec.ofNat 8 (16 * (n / 10 % 10) + n % 10)
    s.a = bcd p →
    (∃ t u, exec (.add (.imm (bcd q))) s = .next t ∧ exec .daa t = .next u ∧
      u.a = bcd (p + q) ∧ u.ccr.c = decide (100 ≤ p + q)) ∧
    ∃ t u, exec (.adc (.imm (bcd q))) s = .next t ∧ exec .daa t = .next u ∧
      u.a = bcd (p + q + s.ccr.c.toNat) ∧ u.ccr.c = decide (100 ≤ p + q + s.ccr.c.toNat)

/-- R291 to R293: NSA swaps the nibbles and twice restores A, RSP sets SPL to $FF and keeps SPH, NOP does nothing
more; opcodes, lengths and cycles. -/
def Obligations.SmallInherents : Prop :=
  encode .nsa = [0x62#8] ∧ encode .rsp = [0x9C#8] ∧ encode .nop = [0x9D#8] ∧
  Instr.nsa.cycles = 3 ∧ Instr.rsp.cycles = 1 ∧ Instr.nop.cycles = 1 ∧
  ∀ s : State,
    exec .nsa s = .next { s with a := BitVec.ofNat 8 (16 * (s.a.toNat % 16) + s.a.toNat / 16) } ∧
    (∃ t, exec .nsa s = .next t ∧ exec .nsa t = .next s) ∧
    exec .rsp s = .next { s with sp := BitVec.ofNat 16 (256 * (s.sp.toNat / 256) + 255) } ∧
    exec .nop s = .next s

/-- STOP and WAIT clear I and enter their low-power state; no other register, no memory byte changes (R294,
R295). -/
def Obligations.StopAndWait : Prop :=
  ∀ s : State,
    exec .stop s = .next { s with ccr := { s.ccr with i := false }, power := .stopped } ∧
    exec .wait s = .next { s with ccr := { s.ccr with i := false }, power := .waiting }
end

