-- ==== Sys2Proof/Laws/Memory.lean ====
section
/-! SUPPORT. Memory: what a read gives after a write, and that every operation keeps the canonical form. -/

namespace Sys2Proof.Machine

@[simp] theorem Memory.read_nil (a : Nat) : Memory.read [] a = Config.unlistedByte := rfl

theorem Memory.read_cons (b : Nat) (v : Byte) (m : Memory) (a : Nat) :
    Memory.read ((b, v) :: m) a = if a = b then v else Memory.read m a := rfl

theorem Memory.wfFrom_mono {lo lo' : Nat} (h : lo' ≤ lo) {m : Memory} (hm : Memory.wfFrom lo m = true) :
    Memory.wfFrom lo' m = true := by
  cases m with
  | nil => rfl
  | cons c m =>
    simp only [Memory.wfFrom, Bool.and_eq_true, decide_eq_true_eq] at hm ⊢
    exact ⟨⟨⟨h.trans hm.1.1.1, hm.1.1.2⟩, hm.1.2⟩, hm.2⟩

/-- An address below every cell reads as unlisted. -/
theorem Memory.read_below {lo a : Nat} {m : Memory} (hm : Memory.wfFrom lo m = true) (h : a < lo) :
    Memory.read m a = Config.unlistedByte := by
  induction m generalizing lo with
  | nil => rfl
  | cons c m ih =>
    simp only [Memory.wfFrom, Bool.and_eq_true, decide_eq_true_eq] at hm
    rw [Memory.read_cons, if_neg (by omega)]
    exact ih hm.2 (by omega)

theorem Memory.read_put_ne {a b : Nat} (v : Byte) (m : Memory) (h : b ≠ a) :
    Memory.read (Memory.put a v m) b = Memory.read m b := by
  unfold Memory.put
  split
  · rfl
  · rw [Memory.read_cons, if_neg h]

theorem Memory.read_put_eq {a : Nat} (v : Byte) {m : Memory} (hm : Memory.wfFrom (a + 1) m = true) :
    Memory.read (Memory.put a v m) a = v := by
  unfold Memory.put
  split
  · next h => rw [Memory.read_below hm (by omega), h]
  · rw [Memory.read_cons, if_pos rfl]

theorem Memory.wfFrom_put {lo a : Nat} (v : Byte) {m : Memory} (hlo : lo ≤ a) (ha : a < 65536)
    (hm : Memory.wfFrom (a + 1) m = true) : Memory.wfFrom lo (Memory.put a v m) = true := by
  unfold Memory.put
  split
  · exact Memory.wfFrom_mono (by omega) hm
  · next h => simp [Memory.wfFrom, hlo, ha, h, hm]

/-- A write leaves every other address alone. -/
theorem Memory.read_write_ne (m : Memory) {a b : Nat} (v : Byte) (h : b ≠ a) :
    Memory.read (Memory.write m a v) b = Memory.read m b := by
  induction m with
  | nil => exact Memory.read_put_ne v [] h
  | cons c m ih =>
    simp only [Memory.write]
    split
    · exact Memory.read_put_ne v _ h
    · split
      · next hc => rw [Memory.read_put_ne v m h, Memory.read_cons, if_neg (hc ▸ h)]
      · rw [Memory.read_cons, Memory.read_cons, ih]

theorem Memory.read_write_eq_from {lo a : Nat} (v : Byte) {m : Memory}
    (hm : Memory.wfFrom lo m = true) : Memory.read (Memory.write m a v) a = v := by
  induction m generalizing lo with
  | nil => exact Memory.read_put_eq v rfl
  | cons c m ih =>
    have hm' := hm
    simp only [Memory.wfFrom, Bool.and_eq_true, decide_eq_true_eq] at hm'
    simp only [Memory.write]
    split
    · exact Memory.read_put_eq v (by simp [Memory.wfFrom, hm'] ; omega)
    · split
      · next hc => exact Memory.read_put_eq v (hc ▸ hm'.2)
      · next hc => rw [Memory.read_cons, if_neg hc]; exact ih hm'.2

/-- A read after a write to the same address gives the byte written. -/
theorem Memory.read_write_eq {m : Memory} (hm : m.wf = true) (a : Nat) (v : Byte) :
    Memory.read (Memory.write m a v) a = v := Memory.read_write_eq_from v hm

theorem Memory.wfFrom_write {lo a : Nat} (v : Byte) {m : Memory} (hlo : lo ≤ a) (ha : a < 65536)
    (hm : Memory.wfFrom lo m = true) : Memory.wfFrom lo (Memory.write m a v) = true := by
  induction m generalizing lo with
  | nil => exact Memory.wfFrom_put v hlo ha rfl
  | cons c m ih =>
    have hm' := hm
    simp only [Memory.wfFrom, Bool.and_eq_true, decide_eq_true_eq] at hm'
    simp only [Memory.write]
    split
    · exact Memory.wfFrom_put v hlo ha (by simp [Memory.wfFrom, hm']; omega)
    · split
      · next hc => exact Memory.wfFrom_put v hlo ha (hc ▸ hm'.2)
      · have := ih (lo := c.1 + 1) (by omega) hm'.2
        simp [Memory.wfFrom, hm', this]

/-- A write keeps the canonical form. -/
theorem Memory.wf_write {m : Memory} (hm : m.wf = true) {a : Nat} (ha : a < 65536) (v : Byte) :
    (Memory.write m a v).wf = true := Memory.wfFrom_write v (Nat.zero_le a) ha hm

theorem Memory.wfFrom_filter (p : Host.Cell → Bool) {lo : Nat} {m : Memory}
    (hm : Memory.wfFrom lo m = true) : Memory.wfFrom lo (m.filter p) = true := by
  induction m generalizing lo with
  | nil => rfl
  | cons c m ih =>
    simp only [Memory.wfFrom, Bool.and_eq_true, decide_eq_true_eq] at hm
    rw [List.filter_cons]
    split
    · have := ih hm.2
      simp [Memory.wfFrom, hm, this]
    · exact Memory.wfFrom_mono (by omega) (ih hm.2)

/-- Leaving cells out keeps the canonical form. -/
theorem Memory.wf_filter (p : Host.Cell → Bool) {m : Memory} (hm : m.wf = true) :
    Memory.wf (m.filter p) = true := Memory.wfFrom_filter p hm

/-- Storing a list of cells, each inside the address space, keeps the canonical form. -/
theorem Memory.wf_writeAll {p : Nat → Bool} (hp : ∀ n, p n = true → n < 65536) (cells : List Host.Cell)
    {m : Memory} (hm : m.wf = true) : (Memory.writeAll p cells m).wf = true := by
  induction cells generalizing m with
  | nil => exact hm
  | cons c cells ih =>
    simp only [Memory.writeAll, List.foldl_cons]
    split
    · next h => exact ih (Memory.wf_write hm (hp _ h) _)
    · exact ih hm

/-- Storing a list of cells leaves the addresses `p` does not admit alone. -/
theorem Memory.read_writeAll_of_not {p : Nat → Bool} {a : Nat} (ha : p a = false)
    (cells : List Host.Cell) (m : Memory) :
    Memory.read (Memory.writeAll p cells m) a = Memory.read m a := by
  induction cells generalizing m with
  | nil => rfl
  | cons c cells ih =>
    simp only [Memory.writeAll, List.foldl_cons]
    split
    · next h =>
      refine (ih _).trans (Memory.read_write_ne m _ fun e => ?_)
      rw [e, h] at ha
      cases ha
    · exact ih m

/-- Storing a list of cells stores its first, then the others. -/
theorem Memory.writeAll_cons (p : Nat → Bool) (c : Host.Cell) (cells : List Host.Cell) (m : Memory) :
    Memory.writeAll p (c :: cells) m =
      Memory.writeAll p cells (if p c.1 then Memory.write m c.1 c.2 else m) := rfl

/-- A byte that no cell of the list is for stays. -/
theorem Memory.read_writeAll_of_not_mem (p : Nat → Bool) {a : Nat} {cells : List Host.Cell}
    (ha : ∀ c ∈ cells, c.1 ≠ a) (m : Memory) : Memory.read (Memory.writeAll p cells m) a = Memory.read m a := by
  induction cells generalizing m with
  | nil => rfl
  | cons c cells ih =>
    rw [Memory.writeAll_cons, ih fun d hd => ha d (List.mem_cons_of_mem _ hd)]
    split
    · exact Memory.read_write_ne m _ (ha c List.mem_cons_self).symm
    · rfl

/-- A byte that one cell of the list is for, at an address that is taken, holds that cell's value. -/
theorem Memory.read_writeAll_of_mem {p : Nat → Bool} (hp : ∀ n, p n = true → n < 65536)
    {cells : List Host.Cell} (hn : (cells.map (·.1)).Nodup) {c : Host.Cell} (hc : c ∈ cells) (ha : p c.1 = true)
    {m : Memory} (hm : m.wf = true) : Memory.read (Memory.writeAll p cells m) c.1 = c.2 := by
  induction cells generalizing m with
  | nil => cases hc
  | cons d cells ih =>
    simp only [List.map_cons, List.nodup_cons] at hn
    rw [Memory.writeAll_cons]
    rcases List.mem_cons.1 hc with rfl | hc
    · rw [Memory.read_writeAll_of_not_mem p fun e he h => hn.1 (List.mem_map.2 ⟨e, he, h⟩), if_pos ha]
      exact Memory.read_write_eq hm _ _
    · refine ih hn.2 hc ?_
      split
      · next h => exact Memory.wf_write hm (hp _ h) _
      · exact hm

/-- Leaving out cells at other addresses does not change what an address reads as. -/
theorem Memory.read_filter_of_keep {p : Nat → Bool} {a : Nat} (ha : p a = true) (m : Memory) :
    Memory.read (m.filter fun c => p c.1) a = Memory.read m a := by
  induction m with
  | nil => rfl
  | cons c m ih =>
    rw [List.filter_cons]
    split
    · rw [Memory.read_cons, Memory.read_cons, ih]
    · next h =>
      rw [Memory.read_cons, if_neg, ih]
      rintro rfl
      exact h ha

/-- The memory of the state after reset is in canonical form. -/
theorem Memory.wf_reset : State.reset.mem.wf = true := rfl

end Sys2Proof.Machine
end

