-- ==== Sys2Proof/Laws/State.lean ====
section
/-! SUPPORT. Every field after every update of the state: no proof unfolds a record update. First the byte
helpers and the flag computations, then the registers, devices, branch and boundary updates. -/

namespace Sys2Proof.Machine

/-! Byte halves -/

/-- The bits of a concatenation (R10). -/
theorem getLsbD_join (h l : Byte) (i : Nat) :
    (join h l).getLsbD i = if i < 8 then l.getLsbD i else h.getLsbD (i - 8) :=
  (BitVec.getLsbD_append (x := h) (y := l)).trans (by by_cases hi : i < 8 <;> simp [hi])

@[simp] theorem hiByte_join (h l : Byte) : hiByte (join h l) = h := by
  apply BitVec.eq_of_getLsbD_eq
  intro i hi
  simp [hiByte, getLsbD_join, hi]

@[simp] theorem loByte_join (h l : Byte) : loByte (join h l) = l := by
  apply BitVec.eq_of_getLsbD_eq
  intro i hi
  simp [loByte, getLsbD_join, hi]

@[simp] theorem join_hiByte_loByte (w : Word) : join (hiByte w) (loByte w) = w := by
  apply BitVec.eq_of_getLsbD_eq
  intro i hi
  rw [getLsbD_join]
  split
  · next h => simp [loByte, h]
  · next h => simp [hiByte, show 8 + (i - 8) = i by omega, show i - 8 < 8 by omega]

/-- The value of a concatenation: big-endian (R57). -/
theorem toNat_join (h l : Byte) : (join h l).toNat = 256 * h.toNat + l.toNat := by
  have := BitVec.toNat_append h l
  have e : (join h l).toNat = (h ++ l).toNat := rfl
  rw [e, this, ← Nat.shiftLeft_add_eq_or_of_lt (by omega), Nat.shiftLeft_eq]
  omega

theorem hiByte_toNat (w : Word) : (hiByte w).toNat = w.toNat / 256 := by
  simp [hiByte, Nat.shiftRight_eq_div_pow]; omega

theorem loByte_toNat (w : Word) : (loByte w).toNat = w.toNat % 256 := by
  simp [loByte]

/-! Flags -/

@[simp] theorem CCR.nz8_v (f : CCR) (r : Byte) : (f.nz8 r).v = f.v := rfl
@[simp] theorem CCR.nz8_hf (f : CCR) (r : Byte) : (f.nz8 r).hf = f.hf := rfl
@[simp] theorem CCR.nz8_i (f : CCR) (r : Byte) : (f.nz8 r).i = f.i := rfl
@[simp] theorem CCR.nz8_n (f : CCR) (r : Byte) : (f.nz8 r).n = r.getLsbD 7 := rfl
@[simp] theorem CCR.nz8_z (f : CCR) (r : Byte) : (f.nz8 r).z = (r == 0#8) := rfl
@[simp] theorem CCR.nz8_c (f : CCR) (r : Byte) : (f.nz8 r).c = f.c := rfl
@[simp] theorem CCR.move8_v (f : CCR) (r : Byte) : (f.move8 r).v = false := rfl
@[simp] theorem CCR.move8_hf (f : CCR) (r : Byte) : (f.move8 r).hf = f.hf := rfl
@[simp] theorem CCR.move8_i (f : CCR) (r : Byte) : (f.move8 r).i = f.i := rfl
@[simp] theorem CCR.move8_n (f : CCR) (r : Byte) : (f.move8 r).n = r.getLsbD 7 := rfl
@[simp] theorem CCR.move8_z (f : CCR) (r : Byte) : (f.move8 r).z = (r == 0#8) := rfl
@[simp] theorem CCR.move8_c (f : CCR) (r : Byte) : (f.move8 r).c = f.c := rfl
@[simp] theorem CCR.nz16_v (f : CCR) (r : Word) : (f.nz16 r).v = f.v := rfl
@[simp] theorem CCR.nz16_hf (f : CCR) (r : Word) : (f.nz16 r).hf = f.hf := rfl
@[simp] theorem CCR.nz16_i (f : CCR) (r : Word) : (f.nz16 r).i = f.i := rfl
@[simp] theorem CCR.nz16_n (f : CCR) (r : Word) : (f.nz16 r).n = r.getLsbD 15 := rfl
@[simp] theorem CCR.nz16_z (f : CCR) (r : Word) : (f.nz16 r).z = (r == 0#16) := rfl
@[simp] theorem CCR.nz16_c (f : CCR) (r : Word) : (f.nz16 r).c = f.c := rfl
@[simp] theorem CCR.move16_v (f : CCR) (r : Word) : (f.move16 r).v = false := rfl
@[simp] theorem CCR.move16_hf (f : CCR) (r : Word) : (f.move16 r).hf = f.hf := rfl
@[simp] theorem CCR.move16_i (f : CCR) (r : Word) : (f.move16 r).i = f.i := rfl
@[simp] theorem CCR.move16_n (f : CCR) (r : Word) : (f.move16 r).n = r.getLsbD 15 := rfl
@[simp] theorem CCR.move16_z (f : CCR) (r : Word) : (f.move16 r).z = (r == 0#16) := rfl
@[simp] theorem CCR.move16_c (f : CCR) (r : Word) : (f.move16 r).c = f.c := rfl

@[simp] theorem CCR.addFlags_i (f : CCR) (a m : Byte) (c : Bool) : (f.addFlags a m c).i = f.i := rfl
@[simp] theorem CCR.subFlags_hf (f : CCR) (a m : Byte) (c : Bool) : (f.subFlags a m c).hf = f.hf := rfl
@[simp] theorem CCR.subFlags_i (f : CCR) (a m : Byte) (c : Bool) : (f.subFlags a m c).i = f.i := rfl
@[simp] theorem CCR.sub16Flags_hf (f : CCR) (a m : Word) : (f.sub16Flags a m).hf = f.hf := rfl
@[simp] theorem CCR.sub16Flags_i (f : CCR) (a m : Word) : (f.sub16Flags a m).i = f.i := rfl
@[simp] theorem CCR.incFlags_hf (f : CCR) (v : Byte) : (f.incFlags v).hf = f.hf := rfl
@[simp] theorem CCR.incFlags_i (f : CCR) (v : Byte) : (f.incFlags v).i = f.i := rfl
@[simp] theorem CCR.incFlags_c (f : CCR) (v : Byte) : (f.incFlags v).c = f.c := rfl
@[simp] theorem CCR.decFlags_hf (f : CCR) (v : Byte) : (f.decFlags v).hf = f.hf := rfl
@[simp] theorem CCR.decFlags_i (f : CCR) (v : Byte) : (f.decFlags v).i = f.i := rfl
@[simp] theorem CCR.decFlags_c (f : CCR) (v : Byte) : (f.decFlags v).c = f.c := rfl
@[simp] theorem CCR.comFlags_hf (f : CCR) (v : Byte) : (f.comFlags v).hf = f.hf := rfl
@[simp] theorem CCR.comFlags_i (f : CCR) (v : Byte) : (f.comFlags v).i = f.i := rfl
@[simp] theorem CCR.negFlags_hf (f : CCR) (v : Byte) : (f.negFlags v).hf = f.hf := rfl
@[simp] theorem CCR.negFlags_i (f : CCR) (v : Byte) : (f.negFlags v).i = f.i := rfl
@[simp] theorem CCR.shiftFlags_hf (f : CCR) (r : Byte) (o : Bool) : (f.shiftFlags r o).hf = f.hf := rfl
@[simp] theorem CCR.shiftFlags_i (f : CCR) (r : Byte) (o : Bool) : (f.shiftFlags r o).i = f.i := rfl
@[simp] theorem CCR.leftFlags_hf (f : CCR) (v r : Byte) : (f.leftFlags v r).hf = f.hf := rfl
@[simp] theorem CCR.leftFlags_i (f : CCR) (v r : Byte) : (f.leftFlags v r).i = f.i := rfl
@[simp] theorem CCR.rightFlags_hf (f : CCR) (v r : Byte) : (f.rightFlags v r).hf = f.hf := rfl
@[simp] theorem CCR.rightFlags_i (f : CCR) (v r : Byte) : (f.rightFlags v r).i = f.i := rfl
@[simp] theorem CCR.clrFlags_hf (f : CCR) : f.clrFlags.hf = f.hf := rfl
@[simp] theorem CCR.clrFlags_i (f : CCR) : f.clrFlags.i = f.i := rfl
@[simp] theorem CCR.clrFlags_c (f : CCR) : f.clrFlags.c = f.c := rfl

/-- Reading back a byte the CCR was pushed as restores all six flags (R30, R272). -/
@[simp] theorem CCR.ofByte_toByte (f : CCR) : CCR.ofByte f.toByte = f := by
  rcases f with ⟨v, hf, i, n, z, c⟩
  revert v hf i n z c
  decide

/-! Registers -/

@[simp] theorem State.setHX_a (s : State) (v : Word) : (s.setHX v).a = s.a := rfl
@[simp] theorem State.setHX_h (s : State) (v : Word) : (s.setHX v).h = hiByte v := rfl
@[simp] theorem State.setHX_x (s : State) (v : Word) : (s.setHX v).x = loByte v := rfl
@[simp] theorem State.setHX_sp (s : State) (v : Word) : (s.setHX v).sp = s.sp := rfl
@[simp] theorem State.setHX_pc (s : State) (v : Word) : (s.setHX v).pc = s.pc := rfl
@[simp] theorem State.setHX_ccr (s : State) (v : Word) : (s.setHX v).ccr = s.ccr := rfl
@[simp] theorem State.setHX_power (s : State) (v : Word) : (s.setHX v).power = s.power := rfl
@[simp] theorem State.setHX_cliWindow (s : State) (v : Word) :
    (s.setHX v).cliWindow = s.cliWindow := rfl
@[simp] theorem State.setHX_stored (s : State) (v : Word) : (s.setHX v).stored = s.stored := rfl
@[simp] theorem State.setHX_irqLatch (s : State) (v : Word) :
    (s.setHX v).irqLatch = s.irqLatch := rfl
@[simp] theorem State.setHX_enable (s : State) (v : Word) : (s.setHX v).enable = s.enable := rfl
@[simp] theorem State.setHX_portA (s : State) (v : Word) : (s.setHX v).portA = s.portA := rfl
@[simp] theorem State.setHX_portB (s : State) (v : Word) : (s.setHX v).portB = s.portB := rfl
@[simp] theorem State.setHX_ddrA (s : State) (v : Word) : (s.setHX v).ddrA = s.ddrA := rfl
@[simp] theorem State.setHX_ddrB (s : State) (v : Word) : (s.setHX v).ddrB = s.ddrB := rfl
@[simp] theorem State.setHX_config1 (s : State) (v : Word) : (s.setHX v).config1 = s.config1 := rfl
@[simp] theorem State.setHX_config2 (s : State) (v : Word) : (s.setHX v).config2 = s.config2 := rfl
@[simp] theorem State.setHX_copEnabled (s : State) (v : Word) :
    (s.setHX v).copEnabled = s.copEnabled := rfl
@[simp] theorem State.setHX_copCounter (s : State) (v : Word) :
    (s.setHX v).copCounter = s.copCounter := rfl
@[simp] theorem State.setHX_resetCause (s : State) (v : Word) :
    (s.setHX v).resetCause = s.resetCause := rfl
@[simp] theorem State.setHX_inputs (s : State) (v : Word) : (s.setHX v).inputs = s.inputs := rfl
@[simp] theorem State.setHX_schedule (s : State) (v : Word) :
    (s.setHX v).schedule = s.schedule := rfl
@[simp] theorem State.setHX_mem (s : State) (v : Word) : (s.setHX v).mem = s.mem := rfl
@[simp] theorem State.setHX_draws (s : State) (v : Word) : (s.setHX v).draws = s.draws := rfl
@[simp] theorem State.setHX_outputs (s : State) (v : Word) : (s.setHX v).outputs = s.outputs := rfl
@[simp] theorem State.setHX_plat (s : State) (v : Word) : (s.setHX v).plat = s.plat := rfl

@[simp] theorem State.hx_setHX (s : State) (v : Word) : (s.setHX v).hx = v := join_hiByte_loByte v

@[simp] theorem State.popped_a (s : State) : (s.popped).a = s.a := rfl
@[simp] theorem State.popped_h (s : State) : (s.popped).h = s.h := rfl
@[simp] theorem State.popped_x (s : State) : (s.popped).x = s.x := rfl
@[simp] theorem State.popped_sp (s : State) : (s.popped).sp = s.sp + 1 := rfl
@[simp] theorem State.popped_pc (s : State) : (s.popped).pc = s.pc := rfl
@[simp] theorem State.popped_ccr (s : State) : (s.popped).ccr = s.ccr := rfl
@[simp] theorem State.popped_power (s : State) : (s.popped).power = s.power := rfl
@[simp] theorem State.popped_cliWindow (s : State) : (s.popped).cliWindow = s.cliWindow := rfl
@[simp] theorem State.popped_stored (s : State) : (s.popped).stored = s.stored := rfl
@[simp] theorem State.popped_irqLatch (s : State) : (s.popped).irqLatch = s.irqLatch := rfl
@[simp] theorem State.popped_enable (s : State) : (s.popped).enable = s.enable := rfl
@[simp] theorem State.popped_portA (s : State) : (s.popped).portA = s.portA := rfl
@[simp] theorem State.popped_portB (s : State) : (s.popped).portB = s.portB := rfl
@[simp] theorem State.popped_ddrA (s : State) : (s.popped).ddrA = s.ddrA := rfl
@[simp] theorem State.popped_ddrB (s : State) : (s.popped).ddrB = s.ddrB := rfl
@[simp] theorem State.popped_config1 (s : State) : (s.popped).config1 = s.config1 := rfl
@[simp] theorem State.popped_config2 (s : State) : (s.popped).config2 = s.config2 := rfl
@[simp] theorem State.popped_copEnabled (s : State) : (s.popped).copEnabled = s.copEnabled := rfl
@[simp] theorem State.popped_copCounter (s : State) : (s.popped).copCounter = s.copCounter := rfl
@[simp] theorem State.popped_resetCause (s : State) : (s.popped).resetCause = s.resetCause := rfl
@[simp] theorem State.popped_inputs (s : State) : (s.popped).inputs = s.inputs := rfl
@[simp] theorem State.popped_schedule (s : State) : (s.popped).schedule = s.schedule := rfl
@[simp] theorem State.popped_mem (s : State) : (s.popped).mem = s.mem := rfl
@[simp] theorem State.popped_draws (s : State) : (s.popped).draws = s.draws := rfl
@[simp] theorem State.popped_outputs (s : State) : (s.popped).outputs = s.outputs := rfl
@[simp] theorem State.popped_plat (s : State) : (s.popped).plat = s.plat := rfl

/-! Devices -/

@[simp] theorem State.output_a (s : State) (a : Word) (v : Byte) : (s.output a v).a = s.a := rfl
@[simp] theorem State.output_h (s : State) (a : Word) (v : Byte) : (s.output a v).h = s.h := rfl
@[simp] theorem State.output_x (s : State) (a : Word) (v : Byte) : (s.output a v).x = s.x := rfl
@[simp] theorem State.output_sp (s : State) (a : Word) (v : Byte) : (s.output a v).sp = s.sp := rfl
@[simp] theorem State.output_pc (s : State) (a : Word) (v : Byte) : (s.output a v).pc = s.pc := rfl
@[simp] theorem State.output_ccr (s : State) (a : Word) (v : Byte) :
    (s.output a v).ccr = s.ccr := rfl
@[simp] theorem State.output_power (s : State) (a : Word) (v : Byte) :
    (s.output a v).power = s.power := rfl
@[simp] theorem State.output_cliWindow (s : State) (a : Word) (v : Byte) :
    (s.output a v).cliWindow = s.cliWindow := rfl
@[simp] theorem State.output_stored (s : State) (a : Word) (v : Byte) :
    (s.output a v).stored = s.stored := rfl
@[simp] theorem State.output_irqLatch (s : State) (a : Word) (v : Byte) :
    (s.output a v).irqLatch = s.irqLatch := rfl
@[simp] theorem State.output_enable (s : State) (a : Word) (v : Byte) :
    (s.output a v).enable = s.enable := rfl
@[simp] theorem State.output_portA (s : State) (a : Word) (v : Byte) :
    (s.output a v).portA = s.portA := rfl
@[simp] theorem State.output_portB (s : State) (a : Word) (v : Byte) :
    (s.output a v).portB = s.portB := rfl
@[simp] theorem State.output_ddrA (s : State) (a : Word) (v : Byte) :
    (s.output a v).ddrA = s.ddrA := rfl
@[simp] theorem State.output_ddrB (s : State) (a : Word) (v : Byte) :
    (s.output a v).ddrB = s.ddrB := rfl
@[simp] theorem State.output_config1 (s : State) (a : Word) (v : Byte) :
    (s.output a v).config1 = s.config1 := rfl
@[simp] theorem State.output_config2 (s : State) (a : Word) (v : Byte) :
    (s.output a v).config2 = s.config2 := rfl
@[simp] theorem State.output_copEnabled (s : State) (a : Word) (v : Byte) :
    (s.output a v).copEnabled = s.copEnabled := rfl
@[simp] theorem State.output_copCounter (s : State) (a : Word) (v : Byte) :
    (s.output a v).copCounter = s.copCounter := rfl
@[simp] theorem State.output_resetCause (s : State) (a : Word) (v : Byte) :
    (s.output a v).resetCause = s.resetCause := rfl
@[simp] theorem State.output_inputs (s : State) (a : Word) (v : Byte) :
    (s.output a v).inputs = s.inputs := rfl
@[simp] theorem State.output_schedule (s : State) (a : Word) (v : Byte) :
    (s.output a v).schedule = s.schedule := rfl
@[simp] theorem State.output_mem (s : State) (a : Word) (v : Byte) :
    (s.output a v).mem = s.mem := rfl
@[simp] theorem State.output_draws (s : State) (a : Word) (v : Byte) :
    (s.output a v).draws = s.draws := rfl
@[simp] theorem State.output_outputs (s : State) (a : Word) (v : Byte) :
    (s.output a v).outputs = (a.toNat, v) :: s.outputs := rfl
@[simp] theorem State.output_plat (s : State) (a : Word) (v : Byte) :
    (s.output a v).plat = s.plat := rfl

@[simp] theorem State.setLatch_a (s : State) (v : Byte) (p : Port) :
    (s.setLatch v p).a = s.a := by cases p <;> rfl
@[simp] theorem State.setLatch_h (s : State) (v : Byte) (p : Port) :
    (s.setLatch v p).h = s.h := by cases p <;> rfl
@[simp] theorem State.setLatch_x (s : State) (v : Byte) (p : Port) :
    (s.setLatch v p).x = s.x := by cases p <;> rfl
@[simp] theorem State.setLatch_sp (s : State) (v : Byte) (p : Port) :
    (s.setLatch v p).sp = s.sp := by cases p <;> rfl
@[simp] theorem State.setLatch_pc (s : State) (v : Byte) (p : Port) :
    (s.setLatch v p).pc = s.pc := by cases p <;> rfl
@[simp] theorem State.setLatch_ccr (s : State) (v : Byte) (p : Port) :
    (s.setLatch v p).ccr = s.ccr := by cases p <;> rfl
@[simp] theorem State.setLatch_power (s : State) (v : Byte) (p : Port) :
    (s.setLatch v p).power = s.power := by cases p <;> rfl
@[simp] theorem State.setLatch_cliWindow (s : State) (v : Byte) (p : Port) :
    (s.setLatch v p).cliWindow = s.cliWindow := by cases p <;> rfl
@[simp] theorem State.setLatch_stored (s : State) (v : Byte) (p : Port) :
    (s.setLatch v p).stored = s.stored := by cases p <;> rfl
@[simp] theorem State.setLatch_irqLatch (s : State) (v : Byte) (p : Port) :
    (s.setLatch v p).irqLatch = s.irqLatch := by cases p <;> rfl
@[simp] theorem State.setLatch_enable (s : State) (v : Byte) (p : Port) :
    (s.setLatch v p).enable = s.enable := by cases p <;> rfl
@[simp] theorem State.setLatch_ddrA (s : State) (v : Byte) (p : Port) :
    (s.setLatch v p).ddrA = s.ddrA := by cases p <;> rfl
@[simp] theorem State.setLatch_ddrB (s : State) (v : Byte) (p : Port) :
    (s.setLatch v p).ddrB = s.ddrB := by cases p <;> rfl
@[simp] theorem State.setLatch_config1 (s : State) (v : Byte) (p : Port) :
    (s.setLatch v p).config1 = s.config1 := by cases p <;> rfl
@[simp] theorem State.setLatch_config2 (s : State) (v : Byte) (p : Port) :
    (s.setLatch v p).config2 = s.config2 := by cases p <;> rfl
@[simp] theorem State.setLatch_copEnabled (s : State) (v : Byte) (p : Port) :
    (s.setLatch v p).copEnabled = s.copEnabled := by cases p <;> rfl
@[simp] theorem State.setLatch_copCounter (s : State) (v : Byte) (p : Port) :
    (s.setLatch v p).copCounter = s.copCounter := by cases p <;> rfl
@[simp] theorem State.setLatch_resetCause (s : State) (v : Byte) (p : Port) :
    (s.setLatch v p).resetCause = s.resetCause := by cases p <;> rfl
@[simp] theorem State.setLatch_inputs (s : State) (v : Byte) (p : Port) :
    (s.setLatch v p).inputs = s.inputs := by cases p <;> rfl
@[simp] theorem State.setLatch_schedule (s : State) (v : Byte) (p : Port) :
    (s.setLatch v p).schedule = s.schedule := by cases p <;> rfl
@[simp] theorem State.setLatch_mem (s : State) (v : Byte) (p : Port) :
    (s.setLatch v p).mem = s.mem := by cases p <;> rfl
@[simp] theorem State.setLatch_draws (s : State) (v : Byte) (p : Port) :
    (s.setLatch v p).draws = s.draws := by cases p <;> rfl
@[simp] theorem State.setLatch_outputs (s : State) (v : Byte) (p : Port) :
    (s.setLatch v p).outputs = s.outputs := by cases p <;> rfl
@[simp] theorem State.setLatch_plat (s : State) (v : Byte) (p : Port) :
    (s.setLatch v p).plat = s.plat := by cases p <;> rfl

@[simp] theorem State.latch_setLatch (s : State) (v : Byte) (p : Port) :
    (s.setLatch v p).latch p = v := by cases p <;> rfl

@[simp] theorem State.setDirection_a (s : State) (v : Byte) (p : Port) :
    (s.setDirection v p).a = s.a := by cases p <;> rfl
@[simp] theorem State.setDirection_h (s : State) (v : Byte) (p : Port) :
    (s.setDirection v p).h = s.h := by cases p <;> rfl
@[simp] theorem State.setDirection_x (s : State) (v : Byte) (p : Port) :
    (s.setDirection v p).x = s.x := by cases p <;> rfl
@[simp] theorem State.setDirection_sp (s : State) (v : Byte) (p : Port) :
    (s.setDirection v p).sp = s.sp := by cases p <;> rfl
@[simp] theorem State.setDirection_pc (s : State) (v : Byte) (p : Port) :
    (s.setDirection v p).pc = s.pc := by cases p <;> rfl
@[simp] theorem State.setDirection_ccr (s : State) (v : Byte) (p : Port) :
    (s.setDirection v p).ccr = s.ccr := by cases p <;> rfl
@[simp] theorem State.setDirection_power (s : State) (v : Byte) (p : Port) :
    (s.setDirection v p).power = s.power := by cases p <;> rfl
@[simp] theorem State.setDirection_cliWindow (s : State) (v : Byte) (p : Port) :
    (s.setDirection v p).cliWindow = s.cliWindow := by cases p <;> rfl
@[simp] theorem State.setDirection_stored (s : State) (v : Byte) (p : Port) :
    (s.setDirection v p).stored = s.stored := by cases p <;> rfl
@[simp] theorem State.setDirection_irqLatch (s : State) (v : Byte) (p : Port) :
    (s.setDirection v p).irqLatch = s.irqLatch := by cases p <;> rfl
@[simp] theorem State.setDirection_enable (s : State) (v : Byte) (p : Port) :
    (s.setDirection v p).enable = s.enable := by cases p <;> rfl
@[simp] theorem State.setDirection_portA (s : State) (v : Byte) (p : Port) :
    (s.setDirection v p).portA = s.portA := by cases p <;> rfl
@[simp] theorem State.setDirection_portB (s : State) (v : Byte) (p : Port) :
    (s.setDirection v p).portB = s.portB := by cases p <;> rfl
@[simp] theorem State.setDirection_config1 (s : State) (v : Byte) (p : Port) :
    (s.setDirection v p).config1 = s.config1 := by cases p <;> rfl
@[simp] theorem State.setDirection_config2 (s : State) (v : Byte) (p : Port) :
    (s.setDirection v p).config2 = s.config2 := by cases p <;> rfl
@[simp] theorem State.setDirection_copEnabled (s : State) (v : Byte) (p : Port) :
    (s.setDirection v p).copEnabled = s.copEnabled := by cases p <;> rfl
@[simp] theorem State.setDirection_copCounter (s : State) (v : Byte) (p : Port) :
    (s.setDirection v p).copCounter = s.copCounter := by cases p <;> rfl
@[simp] theorem State.setDirection_resetCause (s : State) (v : Byte) (p : Port) :
    (s.setDirection v p).resetCause = s.resetCause := by cases p <;> rfl
@[simp] theorem State.setDirection_inputs (s : State) (v : Byte) (p : Port) :
    (s.setDirection v p).inputs = s.inputs := by cases p <;> rfl
@[simp] theorem State.setDirection_schedule (s : State) (v : Byte) (p : Port) :
    (s.setDirection v p).schedule = s.schedule := by cases p <;> rfl
@[simp] theorem State.setDirection_mem (s : State) (v : Byte) (p : Port) :
    (s.setDirection v p).mem = s.mem := by cases p <;> rfl
@[simp] theorem State.setDirection_draws (s : State) (v : Byte) (p : Port) :
    (s.setDirection v p).draws = s.draws := by cases p <;> rfl
@[simp] theorem State.setDirection_outputs (s : State) (v : Byte) (p : Port) :
    (s.setDirection v p).outputs = s.outputs := by cases p <;> rfl
@[simp] theorem State.setDirection_plat (s : State) (v : Byte) (p : Port) :
    (s.setDirection v p).plat = s.plat := by cases p <;> rfl

@[simp] theorem State.direction_setDirection (s : State) (v : Byte) (p : Port) :
    (s.setDirection v p).direction p = v := by cases p <;> rfl

/-! The boundary -/

@[simp] theorem State.begin_a (s : State) (n c : Nat) : (s.begin n c).a = s.a := rfl
@[simp] theorem State.begin_h (s : State) (n c : Nat) : (s.begin n c).h = s.h := rfl
@[simp] theorem State.begin_x (s : State) (n c : Nat) : (s.begin n c).x = s.x := rfl
@[simp] theorem State.begin_sp (s : State) (n c : Nat) : (s.begin n c).sp = s.sp := rfl
@[simp] theorem State.begin_pc (s : State) (n c : Nat) :
    (s.begin n c).pc = s.pc + BitVec.ofNat 16 n := rfl
@[simp] theorem State.begin_ccr (s : State) (n c : Nat) : (s.begin n c).ccr = s.ccr := rfl
@[simp] theorem State.begin_power (s : State) (n c : Nat) : (s.begin n c).power = s.power := rfl
@[simp] theorem State.begin_cliWindow (s : State) (n c : Nat) :
    (s.begin n c).cliWindow = false := rfl
@[simp] theorem State.begin_stored (s : State) (n c : Nat) : (s.begin n c).stored = [] := rfl
@[simp] theorem State.begin_irqLatch (s : State) (n c : Nat) :
    (s.begin n c).irqLatch = s.irqLatch := rfl
@[simp] theorem State.begin_enable (s : State) (n c : Nat) : (s.begin n c).enable = s.enable := rfl
@[simp] theorem State.begin_portA (s : State) (n c : Nat) : (s.begin n c).portA = s.portA := rfl
@[simp] theorem State.begin_portB (s : State) (n c : Nat) : (s.begin n c).portB = s.portB := rfl
@[simp] theorem State.begin_ddrA (s : State) (n c : Nat) : (s.begin n c).ddrA = s.ddrA := rfl
@[simp] theorem State.begin_ddrB (s : State) (n c : Nat) : (s.begin n c).ddrB = s.ddrB := rfl
@[simp] theorem State.begin_config1 (s : State) (n c : Nat) :
    (s.begin n c).config1 = s.config1 := rfl
@[simp] theorem State.begin_config2 (s : State) (n c : Nat) :
    (s.begin n c).config2 = s.config2 := rfl
@[simp] theorem State.begin_copEnabled (s : State) (n c : Nat) :
    (s.begin n c).copEnabled = s.copEnabled := rfl
@[simp] theorem State.begin_copCounter (s : State) (n c : Nat) :
    (s.begin n c).copCounter = s.copCounter + c := rfl
@[simp] theorem State.begin_resetCause (s : State) (n c : Nat) :
    (s.begin n c).resetCause = s.resetCause := rfl
@[simp] theorem State.begin_inputs (s : State) (n c : Nat) : (s.begin n c).inputs = s.inputs := rfl
@[simp] theorem State.begin_schedule (s : State) (n c : Nat) :
    (s.begin n c).schedule = s.schedule := rfl
@[simp] theorem State.begin_mem (s : State) (n c : Nat) : (s.begin n c).mem = s.mem := rfl
@[simp] theorem State.begin_draws (s : State) (n c : Nat) : (s.begin n c).draws = s.draws := rfl
@[simp] theorem State.begin_outputs (s : State) (n c : Nat) :
    (s.begin n c).outputs = s.outputs := rfl
@[simp] theorem State.begin_plat (s : State) (n c : Nat) : (s.begin n c).plat = s.plat := rfl

@[simp] theorem State.idle_a (s : State) : (s.idle).a = s.a := by
  unfold State.idle; split <;> rfl
@[simp] theorem State.idle_h (s : State) : (s.idle).h = s.h := by
  unfold State.idle; split <;> rfl
@[simp] theorem State.idle_x (s : State) : (s.idle).x = s.x := by
  unfold State.idle; split <;> rfl
@[simp] theorem State.idle_sp (s : State) :
    (s.idle).sp = s.sp := by
  unfold State.idle; split <;> rfl
@[simp] theorem State.idle_pc (s : State) :
    (s.idle).pc = s.pc := by
  unfold State.idle; split <;> rfl
@[simp] theorem State.idle_ccr (s : State) :
    (s.idle).ccr = s.ccr := by
  unfold State.idle; split <;> rfl
@[simp] theorem State.idle_power (s : State) :
    (s.idle).power = s.power := by
  unfold State.idle; split <;> rfl
@[simp] theorem State.idle_cliWindow (s : State) :
    (s.idle).cliWindow = s.cliWindow := by
  unfold State.idle; split <;> rfl
@[simp] theorem State.idle_stored (s : State) :
    (s.idle).stored = s.stored := by
  unfold State.idle; split <;> rfl
@[simp] theorem State.idle_irqLatch (s : State) :
    (s.idle).irqLatch = s.irqLatch := by
  unfold State.idle; split <;> rfl
@[simp] theorem State.idle_enable (s : State) :
    (s.idle).enable = s.enable := by
  unfold State.idle; split <;> rfl
@[simp] theorem State.idle_portA (s : State) :
    (s.idle).portA = s.portA := by
  unfold State.idle; split <;> rfl
@[simp] theorem State.idle_portB (s : State) :
    (s.idle).portB = s.portB := by
  unfold State.idle; split <;> rfl
@[simp] theorem State.idle_ddrA (s : State) :
    (s.idle).ddrA = s.ddrA := by
  unfold State.idle; split <;> rfl
@[simp] theorem State.idle_ddrB (s : State) :
    (s.idle).ddrB = s.ddrB := by
  unfold State.idle; split <;> rfl
@[simp] theorem State.idle_config1 (s : State) :
    (s.idle).config1 = s.config1 := by
  unfold State.idle; split <;> rfl
@[simp] theorem State.idle_config2 (s : State) :
    (s.idle).config2 = s.config2 := by
  unfold State.idle; split <;> rfl
@[simp] theorem State.idle_copEnabled (s : State) :
    (s.idle).copEnabled = s.copEnabled := by
  unfold State.idle; split <;> rfl
@[simp] theorem State.idle_resetCause (s : State) :
    (s.idle).resetCause = s.resetCause := by
  unfold State.idle; split <;> rfl
@[simp] theorem State.idle_inputs (s : State) :
    (s.idle).inputs = s.inputs := by
  unfold State.idle; split <;> rfl
@[simp] theorem State.idle_schedule (s : State) :
    (s.idle).schedule = s.schedule := by
  unfold State.idle; split <;> rfl
@[simp] theorem State.idle_mem (s : State) :
    (s.idle).mem = s.mem := by
  unfold State.idle; split <;> rfl
@[simp] theorem State.idle_draws (s : State) :
    (s.idle).draws = s.draws := by
  unfold State.idle; split <;> rfl
@[simp] theorem State.idle_outputs (s : State) :
    (s.idle).outputs = s.outputs := by
  unfold State.idle; split <;> rfl
@[simp] theorem State.idle_plat (s : State) :
    (s.idle).plat = s.plat := by
  unfold State.idle; split <;> rfl

@[simp] theorem State.arrive_a (s : State) :
    (s.arrive).a = s.a := by
  unfold State.arrive State.sample; split <;> rfl
@[simp] theorem State.arrive_h (s : State) :
    (s.arrive).h = s.h := by
  unfold State.arrive State.sample; split <;> rfl
@[simp] theorem State.arrive_x (s : State) :
    (s.arrive).x = s.x := by
  unfold State.arrive State.sample; split <;> rfl
@[simp] theorem State.arrive_sp (s : State) :
    (s.arrive).sp = s.sp := by
  unfold State.arrive State.sample; split <;> rfl
@[simp] theorem State.arrive_pc (s : State) :
    (s.arrive).pc = s.pc := by
  unfold State.arrive State.sample; split <;> rfl
@[simp] theorem State.arrive_ccr (s : State) :
    (s.arrive).ccr = s.ccr := by
  unfold State.arrive State.sample; split <;> rfl
@[simp] theorem State.arrive_power (s : State) :
    (s.arrive).power = s.power := by
  unfold State.arrive State.sample; split <;> rfl
@[simp] theorem State.arrive_cliWindow (s : State) :
    (s.arrive).cliWindow = s.cliWindow := by
  unfold State.arrive State.sample; split <;> rfl
@[simp] theorem State.arrive_stored (s : State) :
    (s.arrive).stored = s.stored := by
  unfold State.arrive State.sample; split <;> rfl
@[simp] theorem State.arrive_enable (s : State) :
    (s.arrive).enable = s.enable := by
  unfold State.arrive State.sample; split <;> rfl
@[simp] theorem State.arrive_portA (s : State) :
    (s.arrive).portA = s.portA := by
  unfold State.arrive State.sample; split <;> rfl
@[simp] theorem State.arrive_portB (s : State) :
    (s.arrive).portB = s.portB := by
  unfold State.arrive State.sample; split <;> rfl
@[simp] theorem State.arrive_ddrA (s : State) :
    (s.arrive).ddrA = s.ddrA := by
  unfold State.arrive State.sample; split <;> rfl
@[simp] theorem State.arrive_ddrB (s : State) :
    (s.arrive).ddrB = s.ddrB := by
  unfold State.arrive State.sample; split <;> rfl
@[simp] theorem State.arrive_config1 (s : State) :
    (s.arrive).config1 = s.config1 := by
  unfold State.arrive State.sample; split <;> rfl
@[simp] theorem State.arrive_config2 (s : State) :
    (s.arrive).config2 = s.config2 := by
  unfold State.arrive State.sample; split <;> rfl
@[simp] theorem State.arrive_copEnabled (s : State) :
    (s.arrive).copEnabled = s.copEnabled := by
  unfold State.arrive State.sample; split <;> rfl
@[simp] theorem State.arrive_copCounter (s : State) :
    (s.arrive).copCounter = s.copCounter := by
  unfold State.arrive State.sample; split <;> rfl
@[simp] theorem State.arrive_resetCause (s : State) :
    (s.arrive).resetCause = s.resetCause := by
  unfold State.arrive State.sample; split <;> rfl
@[simp] theorem State.arrive_mem (s : State) :
    (s.arrive).mem = s.mem := by
  unfold State.arrive State.sample; split <;> rfl
@[simp] theorem State.arrive_draws (s : State) :
    (s.arrive).draws = s.draws + 1 := by
  unfold State.arrive State.sample; split <;> rfl
@[simp] theorem State.arrive_outputs (s : State) :
    (s.arrive).outputs = s.outputs := by
  unfold State.arrive State.sample; split <;> rfl
@[simp] theorem State.arrive_plat (s : State) :
    (s.arrive).plat = s.plat := by
  unfold State.arrive State.sample; split <;> rfl

/-! Reset -/

@[simp] theorem State.resetActions_sp (s : State) (c : ResetCause) :
    (s.resetActions c).sp = 0x00FF#16 := rfl
@[simp] theorem State.resetActions_pc (s : State) (c : ResetCause) :
    (s.resetActions c).pc = s.pc := rfl
@[simp] theorem State.resetActions_power (s : State) (c : ResetCause) :
    (s.resetActions c).power = .running := rfl
@[simp] theorem State.resetActions_cliWindow (s : State) (c : ResetCause) :
    (s.resetActions c).cliWindow = false := rfl
@[simp] theorem State.resetActions_stored (s : State) (c : ResetCause) :
    (s.resetActions c).stored = [] := rfl
@[simp] theorem State.resetActions_irqLatch (s : State) (c : ResetCause) :
    (s.resetActions c).irqLatch = false := rfl
@[simp] theorem State.resetActions_enable (s : State) (c : ResetCause) :
    (s.resetActions c).enable = SourceFlags.none := rfl
@[simp] theorem State.resetActions_ddrA (s : State) (c : ResetCause) :
    (s.resetActions c).ddrA = 0x00#8 := rfl
@[simp] theorem State.resetActions_ddrB (s : State) (c : ResetCause) :
    (s.resetActions c).ddrB = 0x00#8 := rfl
@[simp] theorem State.resetActions_copEnabled (s : State) (c : ResetCause) :
    (s.resetActions c).copEnabled = s.plat.copOnAtReset := rfl
@[simp] theorem State.resetActions_copCounter (s : State) (c : ResetCause) :
    (s.resetActions c).copCounter = 0 := rfl
@[simp] theorem State.resetActions_resetCause (s : State) (c : ResetCause) :
    (s.resetActions c).resetCause = c := rfl
@[simp] theorem State.resetActions_inputs (s : State) (c : ResetCause) :
    (s.resetActions c).inputs = s.inputs := rfl
@[simp] theorem State.resetActions_schedule (s : State) (c : ResetCause) :
    (s.resetActions c).schedule = s.schedule := rfl
@[simp] theorem State.resetActions_mem (s : State) (c : ResetCause) :
    (s.resetActions c).mem = s.memAfterReset c := rfl
@[simp] theorem State.resetActions_draws (s : State) (c : ResetCause) :
    (s.resetActions c).draws = s.draws := rfl
@[simp] theorem State.resetActions_outputs (s : State) (c : ResetCause) :
    (s.resetActions c).outputs = s.outputs := rfl
@[simp] theorem State.resetActions_plat (s : State) (c : ResetCause) :
    (s.resetActions c).plat = s.plat := rfl

@[simp] theorem State.resetActions_ccr_i (s : State) (c : ResetCause) : (s.resetActions c).ccr.i = true := rfl

end Sys2Proof.Machine
end

