-- ==== Sys2Proof/Laws/Ops.lean ====
section
/-! SUPPORT. One law for each shared operation of Machine/Ops.lean: the bus, the stack, interrupt entry and
return, reset. A proof cites these and unfolds no operation. -/

namespace Sys2Proof.Machine

/-! The bus -/

@[simp] theorem State.deliver_a (s : State) (a : Word) (v : Byte) :
    (s.deliver a v).a = s.a := by
  unfold State.deliver; split
  · rfl
  · split <;> simp
@[simp] theorem State.deliver_h (s : State) (a : Word) (v : Byte) :
    (s.deliver a v).h = s.h := by
  unfold State.deliver; split
  · rfl
  · split <;> simp
@[simp] theorem State.deliver_x (s : State) (a : Word) (v : Byte) :
    (s.deliver a v).x = s.x := by
  unfold State.deliver; split
  · rfl
  · split <;> simp
@[simp] theorem State.deliver_sp (s : State) (a : Word) (v : Byte) :
    (s.deliver a v).sp = s.sp := by
  unfold State.deliver; split
  · rfl
  · split <;> simp
@[simp] theorem State.deliver_pc (s : State) (a : Word) (v : Byte) :
    (s.deliver a v).pc = s.pc := by
  unfold State.deliver; split
  · rfl
  · split <;> simp
@[simp] theorem State.deliver_ccr (s : State) (a : Word) (v : Byte) :
    (s.deliver a v).ccr = s.ccr := by
  unfold State.deliver; split
  · rfl
  · split <;> simp
@[simp] theorem State.deliver_power (s : State) (a : Word) (v : Byte) :
    (s.deliver a v).power = s.power := by
  unfold State.deliver; split
  · rfl
  · split <;> simp
@[simp] theorem State.deliver_cliWindow (s : State) (a : Word) (v : Byte) :
    (s.deliver a v).cliWindow = s.cliWindow := by
  unfold State.deliver; split
  · rfl
  · split <;> simp
@[simp] theorem State.deliver_irqLatch (s : State) (a : Word) (v : Byte) :
    (s.deliver a v).irqLatch = s.irqLatch := by
  unfold State.deliver; split
  · rfl
  · split <;> simp
@[simp] theorem State.deliver_resetCause (s : State) (a : Word) (v : Byte) :
    (s.deliver a v).resetCause = s.resetCause := by
  unfold State.deliver; split
  · rfl
  · split <;> simp
@[simp] theorem State.deliver_inputs (s : State) (a : Word) (v : Byte) :
    (s.deliver a v).inputs = s.inputs := by
  unfold State.deliver; split
  · rfl
  · split <;> simp
@[simp] theorem State.deliver_schedule (s : State) (a : Word) (v : Byte) :
    (s.deliver a v).schedule = s.schedule := by
  unfold State.deliver; split
  · rfl
  · split <;> simp
@[simp] theorem State.deliver_draws (s : State) (a : Word) (v : Byte) :
    (s.deliver a v).draws = s.draws := by
  unfold State.deliver; split
  · rfl
  · split <;> simp
@[simp] theorem State.deliver_plat (s : State) (a : Word) (v : Byte) :
    (s.deliver a v).plat = s.plat := by
  unfold State.deliver; split
  · rfl
  · split <;> simp
@[simp] theorem State.deliver_stored (s : State) (a : Word) (v : Byte) :
    (s.deliver a v).stored = s.stored := by
  unfold State.deliver; split
  · rfl
  · split <;> simp
@[simp] theorem State.write_a (s : State) (a : Word) (v : Byte) :
    (s.write a v).a = s.a := by simp [State.write]
@[simp] theorem State.write_h (s : State) (a : Word) (v : Byte) :
    (s.write a v).h = s.h := by simp [State.write]
@[simp] theorem State.write_x (s : State) (a : Word) (v : Byte) :
    (s.write a v).x = s.x := by simp [State.write]
@[simp] theorem State.write_sp (s : State) (a : Word) (v : Byte) :
    (s.write a v).sp = s.sp := by simp [State.write]
@[simp] theorem State.write_pc (s : State) (a : Word) (v : Byte) :
    (s.write a v).pc = s.pc := by simp [State.write]
@[simp] theorem State.write_ccr (s : State) (a : Word) (v : Byte) :
    (s.write a v).ccr = s.ccr := by simp [State.write]
@[simp] theorem State.write_power (s : State) (a : Word) (v : Byte) :
    (s.write a v).power = s.power := by simp [State.write]
@[simp] theorem State.write_cliWindow (s : State) (a : Word) (v : Byte) :
    (s.write a v).cliWindow = s.cliWindow := by simp [State.write]
@[simp] theorem State.write_irqLatch (s : State) (a : Word) (v : Byte) :
    (s.write a v).irqLatch = s.irqLatch := by simp [State.write]
@[simp] theorem State.write_resetCause (s : State) (a : Word) (v : Byte) :
    (s.write a v).resetCause = s.resetCause := by simp [State.write]
@[simp] theorem State.write_inputs (s : State) (a : Word) (v : Byte) :
    (s.write a v).inputs = s.inputs := by simp [State.write]
@[simp] theorem State.write_schedule (s : State) (a : Word) (v : Byte) :
    (s.write a v).schedule = s.schedule := by simp [State.write]
@[simp] theorem State.write_draws (s : State) (a : Word) (v : Byte) :
    (s.write a v).draws = s.draws := by simp [State.write]
@[simp] theorem State.write_plat (s : State) (a : Word) (v : Byte) :
    (s.write a v).plat = s.plat := by simp [State.write]

/-- What a bus write does to memory: RAM takes the byte, $FFFF and everything else does not (R54, R337). -/
theorem State.write_mem (s : State) (a : Word) (v : Byte) :
    (s.write a v).mem =
      if a ≠ copAddress ∧ s.plat.spaceAt a = .ram then s.mem.write a.toNat v else s.mem := by
  unfold State.write State.deliver
  by_cases h : a = copAddress
  · simp [h]
  · simp only [if_neg h]
    split <;> simp_all

/-- What a bus write leaves for the prefetch rule: its address, but for one in ROM (R68, D5). -/
theorem State.write_stored (s : State) (a : Word) (v : Byte) :
    (s.write a v).stored = s.recorded a := rfl

/-- A bus write, case by case: everything it can do but record its address. -/
theorem State.deliver_cases (s : State) (a : Word) (v : Byte) :
    (a = copAddress ∧ s.deliver a v = ({ s with copCounter := 0 }).output a v) ∨
    (a ≠ copAddress ∧
      ((s.plat.spaceAt a = .ram ∧ s.deliver a v = { s with mem := s.mem.write a.toNat v }) ∨
        ((s.plat.spaceAt a = .rom ∨ s.plat.spaceAt a = .monitorRom ∨
          s.plat.spaceAt a = .unimplemented) ∧ s.deliver a v = s) ∨
        (∃ p, s.plat.spaceAt a = .portData p ∧ s.deliver a v = (s.setLatch v p).output a v) ∨
        (∃ p, s.plat.spaceAt a = .portDirection p ∧ s.deliver a v = (s.setDirection v p).output a v) ∨
        (s.plat.spaceAt a = .config1 ∧
          s.deliver a v = ({ s with config1 := v, copEnabled := copAfterConfig1 v }).output a v) ∨
        (s.plat.spaceAt a = .config2 ∧ s.deliver a v = ({ s with config2 := v }).output a v) ∨
        (s.plat.spaceAt a = .resetStatus ∧ s.deliver a v = s.output a v) ∨
        (s.plat.spaceAt a = .io ∧
          s.deliver a v = ({ s with enable := s.enable.afterWrite s.plat a v }).output a v))) := by
  by_cases h : a = copAddress
  · exact .inl ⟨h, by simp only [State.deliver, if_pos h]⟩
  · refine .inr ⟨h, ?_⟩
    simp only [State.deliver, if_neg h]
    cases s.plat.spaceAt a <;> simp

/-- Every other byte of memory stays. -/
theorem State.read_mem_write_ne (s : State) (a : Word) (v : Byte) {n : Nat} (h : n ≠ a.toNat) :
    (s.write a v).mem.read n = s.mem.read n := by
  rw [State.write_mem]
  split
  · exact Memory.read_write_ne _ _ h
  · rfl

/-- The byte written holds the value where it is RAM, and its old value elsewhere. -/
theorem State.read_mem_write_eq (s : State) (a : Word) (v : Byte) (hm : s.mem.wf = true) :
    (s.write a v).mem.read a.toNat =
      if a ≠ copAddress ∧ s.plat.spaceAt a = .ram then v else s.mem.read a.toNat := by
  rw [State.write_mem]
  split
  · exact Memory.read_write_eq hm a.toNat v
  · rfl

/-- A bus write keeps the canonical form. -/
theorem State.wf_write (s : State) (a : Word) (v : Byte) (hm : s.mem.wf = true) :
    (s.write a v).mem.wf = true := by
  rw [State.write_mem]
  split
  · exact Memory.wf_write hm a.isLt v
  · exact hm

/-- A byte of no RAM never changes. -/
theorem State.write_keeps_rom (s : State) (a : Word) (v : Byte) {b : Word}
    (h : s.plat.spaceAt b ≠ .ram) : (s.write a v).mem.read b.toNat = s.mem.read b.toNat := by
  by_cases e : b = a
  · subst e
    rw [State.write_mem, if_neg (fun c => h c.2)]
  · exact s.read_mem_write_ne a v (fun c => e (BitVec.eq_of_toNat_eq c))

/-- A read of memory is the byte there (R52). -/
theorem State.read_memory (s : State) (k : Nat) (a : Word)
    (h : s.plat.spaceAt a = .ram ∨ s.plat.spaceAt a = .rom ∨ s.plat.spaceAt a = .monitorRom) :
    s.read k a = s.mem.read a.toNat := by
  unfold State.read
  rcases h with h | h | h <;> simp [h]

/-- A read that the environment lists finds the levels listed, where no earlier entry is for it. -/
@[simp] theorem Inputs.levels_head (e : Inputs) (r : PinRead) (rs : List PinRead) :
    ({ e with pinReads := r :: rs } : Inputs).levels r.read r.port = r.levels := by
  simp [Inputs.levels]

/-- An entry for another read changes nothing. -/
theorem Inputs.levels_tail (e : Inputs) (r : PinRead) (rs : List PinRead) {k : Nat} {p : Port}
    (h : ¬(r.read = k ∧ r.port = p)) :
    ({ e with pinReads := r :: rs } : Inputs).levels k p =
      ({ e with pinReads := rs } : Inputs).levels k p := by
  simp [Inputs.levels, h]

/-- A byte that firstFree gives although it is used leaves no other: every byte it tried is used. -/
theorem firstFree_used {used : List Byte} : ∀ {n : Nat} {b : Byte}, firstFree used n b ∈ used →
    ∀ j : Nat, j ≤ n → b + BitVec.ofNat 8 j ∈ used
  | 0, b, h, j, hj => by
    obtain rfl : j = 0 := by omega
    simpa [firstFree] using h
  | n + 1, b, h, j, hj => by
    unfold firstFree at h
    split at h
    · next hb =>
      cases j with
      | zero => simpa using hb
      | succ j =>
        have := firstFree_used h j (by omega)
        rwa [show b + BitVec.ofNat 8 (j + 1) = b + 1 + BitVec.ofNat 8 j by
          apply BitVec.eq_of_toNat_eq; simp; omega]
    · next hb => exact absurd (List.contains_iff_mem.2 h) (by simpa using hb)

/-- Among six bytes one is free of five. -/
theorem firstFree_not_mem {used : List Byte} (h : used.length ≤ 5) (b : Byte) : firstFree used 5 b ∉ used := by
  intro hm
  have hs : (List.range 6).map (fun j => b + BitVec.ofNat 8 j) ⊆ used := fun v hv => by
    obtain ⟨j, hj, rfl⟩ := List.mem_map.1 hv
    exact firstFree_used hm j (by have := List.mem_range.1 hj; omega)
  have hn : ((List.range 6).map fun j => b + BitVec.ofNat 8 j).Nodup := by
    refine List.Nodup.map_on (fun x hx y hy he => ?_) List.nodup_range
    have hx := List.mem_range.1 hx
    have hy := List.mem_range.1 hy
    have := congrArg BitVec.toNat ((BitVec.add_right_inj b).1 he)
    simp only [BitVec.toNat_ofNat] at this
    omega
  have := (List.subperm_of_subset hn hs).length_le
  simp at this
  omega

/-- A list of codes with a fresh one in front, where no two were alike. -/
theorem nodup_cons_firstFree {codes : List (ResetCause × Byte)} (h : (codes.map (·.2)).Nodup)
    (hl : codes.length ≤ 5) (c : ResetCause) (b : Byte) :
    (((c, firstFree (codes.map (·.2)) 5 b) :: codes).map (·.2)).Nodup :=
  List.nodup_cons.2 ⟨firstFree_not_mem (by simpa using hl) b, h⟩

/-- No two causes have one code. -/
theorem resetCodes_nodup : (resetCodes.map (·.2)).Nodup := by
  unfold resetCodes
  simp only [List.foldl_cons, List.foldl_nil]
  repeat' first
    | exact List.nodup_nil
    | refine nodup_cons_firstFree ?_ (by simp) _ _

/-- Every cause has a code. -/
theorem resetCodes_find (c : ResetCause) :
    ∃ b, resetCodes.find? (·.1 == c) = some (c, b) := by
  unfold resetCodes
  cases c <;> simp

/-- The code of a cause names it. -/
theorem namedCause_code {c : ResetCause} {b : Byte} (h : (c, b) ∈ resetCodes) : namedCause b = some c := by
  have hn := resetCodes_nodup
  unfold namedCause
  generalize resetCodes = codes at h hn
  induction codes with
  | nil => cases h
  | cons d ds ih =>
    simp only [List.map_cons, List.nodup_cons] at hn
    rcases List.mem_cons.1 h with rfl | h
    · simp
    · have : d.2 ≠ b := fun e => hn.1 (e ▸ List.mem_map_of_mem (f := Prod.snd) h)
      rw [List.find?_cons_of_neg (by simpa using this)]
      exact ih h hn.2

/-- Every read of the Reset Status Register names the cause recorded (R305). -/
@[simp] theorem namedCause_resetStatusRead (draw k : Nat) (c : ResetCause) :
    namedCause (resetStatusRead draw k c) = some c := by
  unfold resetStatusRead
  simp only
  split
  · assumption
  · obtain ⟨b, hb⟩ := resetCodes_find c
    rw [hb]
    exact namedCause_code (List.mem_of_find?_eq_some hb)

/-- A read of a port (R339). -/
theorem State.read_port (s : State) (k : Nat) (a : Word) (p : Port)
    (h : s.plat.spaceAt a = .portData p) : s.read k a = s.portByte k p := by
  unfold State.read
  simp [h]

/-! Two bytes -/

@[simp] theorem State.write16_a (s : State) (a v : Word) :
    (s.write16 a v).a = s.a := by simp [State.write16]
@[simp] theorem State.write16_h (s : State) (a v : Word) :
    (s.write16 a v).h = s.h := by simp [State.write16]
@[simp] theorem State.write16_x (s : State) (a v : Word) :
    (s.write16 a v).x = s.x := by simp [State.write16]
@[simp] theorem State.write16_sp (s : State) (a v : Word) :
    (s.write16 a v).sp = s.sp := by simp [State.write16]
@[simp] theorem State.write16_pc (s : State) (a v : Word) :
    (s.write16 a v).pc = s.pc := by simp [State.write16]
@[simp] theorem State.write16_ccr (s : State) (a v : Word) :
    (s.write16 a v).ccr = s.ccr := by simp [State.write16]
@[simp] theorem State.write16_power (s : State) (a v : Word) :
    (s.write16 a v).power = s.power := by simp [State.write16]
@[simp] theorem State.write16_cliWindow (s : State) (a v : Word) :
    (s.write16 a v).cliWindow = s.cliWindow := by simp [State.write16]
@[simp] theorem State.write16_irqLatch (s : State) (a v : Word) :
    (s.write16 a v).irqLatch = s.irqLatch := by simp [State.write16]
@[simp] theorem State.write16_resetCause (s : State) (a v : Word) :
    (s.write16 a v).resetCause = s.resetCause := by simp [State.write16]
@[simp] theorem State.write16_inputs (s : State) (a v : Word) :
    (s.write16 a v).inputs = s.inputs := by simp [State.write16]
@[simp] theorem State.write16_schedule (s : State) (a v : Word) :
    (s.write16 a v).schedule = s.schedule := by simp [State.write16]
@[simp] theorem State.write16_draws (s : State) (a v : Word) :
    (s.write16 a v).draws = s.draws := by simp [State.write16]
@[simp] theorem State.write16_plat (s : State) (a v : Word) :
    (s.write16 a v).plat = s.plat := by simp [State.write16]

theorem State.wf_write16 (s : State) (a v : Word) (hm : s.mem.wf = true) :
    (s.write16 a v).mem.wf = true := State.wf_write _ _ _ (State.wf_write _ _ _ hm)

/-! The stack -/

@[simp] theorem State.push_mem (s : State) (v : Byte) : (s.push v).mem = (s.write s.sp v).mem := rfl
@[simp] theorem State.push_a (s : State) (v : Byte) :
    (s.push v).a = s.a := by simp [State.push]
@[simp] theorem State.push_h (s : State) (v : Byte) :
    (s.push v).h = s.h := by simp [State.push]
@[simp] theorem State.push_x (s : State) (v : Byte) :
    (s.push v).x = s.x := by simp [State.push]
@[simp] theorem State.push_sp (s : State) (v : Byte) :
    (s.push v).sp = s.sp - 1 := by simp [State.push]
@[simp] theorem State.push_pc (s : State) (v : Byte) :
    (s.push v).pc = s.pc := by simp [State.push]
@[simp] theorem State.push_ccr (s : State) (v : Byte) :
    (s.push v).ccr = s.ccr := by simp [State.push]
@[simp] theorem State.push_power (s : State) (v : Byte) :
    (s.push v).power = s.power := by simp [State.push]
@[simp] theorem State.push_cliWindow (s : State) (v : Byte) :
    (s.push v).cliWindow = s.cliWindow := by simp [State.push]
@[simp] theorem State.push_irqLatch (s : State) (v : Byte) :
    (s.push v).irqLatch = s.irqLatch := by simp [State.push]
@[simp] theorem State.push_resetCause (s : State) (v : Byte) :
    (s.push v).resetCause = s.resetCause := by simp [State.push]
@[simp] theorem State.push_inputs (s : State) (v : Byte) :
    (s.push v).inputs = s.inputs := by simp [State.push]
@[simp] theorem State.push_schedule (s : State) (v : Byte) :
    (s.push v).schedule = s.schedule := by simp [State.push]
@[simp] theorem State.push_draws (s : State) (v : Byte) :
    (s.push v).draws = s.draws := by simp [State.push]
@[simp] theorem State.push_plat (s : State) (v : Byte) :
    (s.push v).plat = s.plat := by simp [State.push]

theorem State.wf_push (s : State) (v : Byte) (hm : s.mem.wf = true) : (s.push v).mem.wf = true :=
  State.wf_write _ _ _ hm

@[simp] theorem State.pushPC_a (s : State) :
    (s.pushPC).a = s.a := by simp [State.pushPC]
@[simp] theorem State.pushPC_h (s : State) :
    (s.pushPC).h = s.h := by simp [State.pushPC]
@[simp] theorem State.pushPC_x (s : State) :
    (s.pushPC).x = s.x := by simp [State.pushPC]
@[simp] theorem State.pushPC_sp (s : State) :
    (s.pushPC).sp = s.sp - 2 := by simp [State.pushPC]; bv_omega
@[simp] theorem State.pushPC_pc (s : State) :
    (s.pushPC).pc = s.pc := by simp [State.pushPC]
@[simp] theorem State.pushPC_ccr (s : State) :
    (s.pushPC).ccr = s.ccr := by simp [State.pushPC]
@[simp] theorem State.pushPC_power (s : State) :
    (s.pushPC).power = s.power := by simp [State.pushPC]
@[simp] theorem State.pushPC_cliWindow (s : State) :
    (s.pushPC).cliWindow = s.cliWindow := by simp [State.pushPC]
@[simp] theorem State.pushPC_irqLatch (s : State) :
    (s.pushPC).irqLatch = s.irqLatch := by simp [State.pushPC]
@[simp] theorem State.pushPC_resetCause (s : State) :
    (s.pushPC).resetCause = s.resetCause := by simp [State.pushPC]
@[simp] theorem State.pushPC_inputs (s : State) :
    (s.pushPC).inputs = s.inputs := by simp [State.pushPC]
@[simp] theorem State.pushPC_schedule (s : State) :
    (s.pushPC).schedule = s.schedule := by simp [State.pushPC]
@[simp] theorem State.pushPC_draws (s : State) :
    (s.pushPC).draws = s.draws := by simp [State.pushPC]
@[simp] theorem State.pushPC_plat (s : State) :
    (s.pushPC).plat = s.plat := by simp [State.pushPC]

theorem State.wf_pushPC (s : State) (hm : s.mem.wf = true) : s.pushPC.mem.wf = true :=
  State.wf_push _ _ (State.wf_push _ _ hm)

@[simp] theorem State.stack_a (s : State) :
    (s.stack).a = s.a := by simp [State.stack]
@[simp] theorem State.stack_h (s : State) :
    (s.stack).h = s.h := by simp [State.stack]
@[simp] theorem State.stack_x (s : State) :
    (s.stack).x = s.x := by simp [State.stack]
@[simp] theorem State.stack_sp (s : State) :
    (s.stack).sp = s.sp - 5 := by simp [State.stack]; bv_omega
@[simp] theorem State.stack_pc (s : State) :
    (s.stack).pc = s.pc := by simp [State.stack]
@[simp] theorem State.stack_ccr (s : State) :
    (s.stack).ccr = s.ccr := by simp [State.stack]
@[simp] theorem State.stack_power (s : State) :
    (s.stack).power = s.power := by simp [State.stack]
@[simp] theorem State.stack_cliWindow (s : State) :
    (s.stack).cliWindow = s.cliWindow := by simp [State.stack]
@[simp] theorem State.stack_irqLatch (s : State) :
    (s.stack).irqLatch = s.irqLatch := by simp [State.stack]
@[simp] theorem State.stack_resetCause (s : State) :
    (s.stack).resetCause = s.resetCause := by simp [State.stack]
@[simp] theorem State.stack_inputs (s : State) :
    (s.stack).inputs = s.inputs := by simp [State.stack]
@[simp] theorem State.stack_schedule (s : State) :
    (s.stack).schedule = s.schedule := by simp [State.stack]
@[simp] theorem State.stack_draws (s : State) :
    (s.stack).draws = s.draws := by simp [State.stack]
@[simp] theorem State.stack_plat (s : State) :
    (s.stack).plat = s.plat := by simp [State.stack]

theorem State.wf_stack (s : State) (hm : s.mem.wf = true) : s.stack.mem.wf = true :=
  State.wf_push _ _ (State.wf_push _ _ (State.wf_push _ _ (State.wf_pushPC _ hm)))

/-! Exceptions -/


@[simp] theorem State.takeInterrupt_a (s : State) (v : Word) :
    (s.takeInterrupt v).a = s.a := by simp [State.takeInterrupt]
@[simp] theorem State.takeInterrupt_h (s : State) (v : Word) :
    (s.takeInterrupt v).h = s.h := by simp [State.takeInterrupt]
@[simp] theorem State.takeInterrupt_x (s : State) (v : Word) :
    (s.takeInterrupt v).x = s.x := by simp [State.takeInterrupt]
@[simp] theorem State.takeInterrupt_sp (s : State) (v : Word) :
    (s.takeInterrupt v).sp = s.sp - 5 := by simp [State.takeInterrupt]
@[simp] theorem State.takeInterrupt_power (s : State) (v : Word) :
    (s.takeInterrupt v).power = s.power := by simp [State.takeInterrupt]
@[simp] theorem State.takeInterrupt_cliWindow (s : State) (v : Word) :
    (s.takeInterrupt v).cliWindow = s.cliWindow := by simp [State.takeInterrupt]
@[simp] theorem State.takeInterrupt_irqLatch (s : State) (v : Word) :
    (s.takeInterrupt v).irqLatch = s.irqLatch := by simp [State.takeInterrupt]
@[simp] theorem State.takeInterrupt_resetCause (s : State) (v : Word) :
    (s.takeInterrupt v).resetCause = s.resetCause := by simp [State.takeInterrupt]
@[simp] theorem State.takeInterrupt_inputs (s : State) (v : Word) :
    (s.takeInterrupt v).inputs = s.inputs := by simp [State.takeInterrupt]
@[simp] theorem State.takeInterrupt_schedule (s : State) (v : Word) :
    (s.takeInterrupt v).schedule = s.schedule := by simp [State.takeInterrupt]
@[simp] theorem State.takeInterrupt_draws (s : State) (v : Word) :
    (s.takeInterrupt v).draws = s.draws := by simp [State.takeInterrupt]
@[simp] theorem State.takeInterrupt_plat (s : State) (v : Word) :
    (s.takeInterrupt v).plat = s.plat := by simp [State.takeInterrupt]
@[simp] theorem State.takeInterrupt_ccr (s : State) (v : Word) :
    (s.takeInterrupt v).ccr = { s.ccr with i := true } := by simp [State.takeInterrupt]
@[simp] theorem State.takeInterrupt_mem (s : State) (v : Word) :
    (s.takeInterrupt v).mem = s.stack.mem := rfl
@[simp] theorem State.takeInterrupt_pc (s : State) (v : Word) :
    (s.takeInterrupt v).pc = s.stack.read16 0 v := rfl

theorem State.wf_takeInterrupt (s : State) (v : Word) (hm : s.mem.wf = true) :
    (s.takeInterrupt v).mem.wf = true := s.wf_stack hm

@[simp] theorem State.returnFromInterrupt_h (s : State) : s.returnFromInterrupt.h = s.h := rfl
@[simp] theorem State.returnFromInterrupt_sp (s : State) : s.returnFromInterrupt.sp = s.sp + 5 := rfl
@[simp] theorem State.returnFromInterrupt_power (s : State) : s.returnFromInterrupt.power = s.power := rfl
@[simp] theorem State.returnFromInterrupt_cliWindow (s : State) :
    s.returnFromInterrupt.cliWindow = s.cliWindow := rfl
@[simp] theorem State.returnFromInterrupt_stored (s : State) : s.returnFromInterrupt.stored = s.stored := rfl
@[simp] theorem State.returnFromInterrupt_irqLatch (s : State) :
    s.returnFromInterrupt.irqLatch = s.irqLatch := rfl
@[simp] theorem State.returnFromInterrupt_enable (s : State) : s.returnFromInterrupt.enable = s.enable := rfl
@[simp] theorem State.returnFromInterrupt_portA (s : State) : s.returnFromInterrupt.portA = s.portA := rfl
@[simp] theorem State.returnFromInterrupt_portB (s : State) : s.returnFromInterrupt.portB = s.portB := rfl
@[simp] theorem State.returnFromInterrupt_ddrA (s : State) : s.returnFromInterrupt.ddrA = s.ddrA := rfl
@[simp] theorem State.returnFromInterrupt_ddrB (s : State) : s.returnFromInterrupt.ddrB = s.ddrB := rfl
@[simp] theorem State.returnFromInterrupt_config1 (s : State) :
    s.returnFromInterrupt.config1 = s.config1 := rfl
@[simp] theorem State.returnFromInterrupt_config2 (s : State) :
    s.returnFromInterrupt.config2 = s.config2 := rfl
@[simp] theorem State.returnFromInterrupt_copEnabled (s : State) :
    s.returnFromInterrupt.copEnabled = s.copEnabled := rfl
@[simp] theorem State.returnFromInterrupt_copCounter (s : State) :
    s.returnFromInterrupt.copCounter = s.copCounter := rfl
@[simp] theorem State.returnFromInterrupt_resetCause (s : State) :
    s.returnFromInterrupt.resetCause = s.resetCause := rfl
@[simp] theorem State.returnFromInterrupt_inputs (s : State) : s.returnFromInterrupt.inputs = s.inputs := rfl
@[simp] theorem State.returnFromInterrupt_schedule (s : State) :
    s.returnFromInterrupt.schedule = s.schedule := rfl
@[simp] theorem State.returnFromInterrupt_mem (s : State) : s.returnFromInterrupt.mem = s.mem := rfl
@[simp] theorem State.returnFromInterrupt_draws (s : State) : s.returnFromInterrupt.draws = s.draws := rfl
@[simp] theorem State.returnFromInterrupt_outputs (s : State) :
    s.returnFromInterrupt.outputs = s.outputs := rfl
@[simp] theorem State.returnFromInterrupt_plat (s : State) : s.returnFromInterrupt.plat = s.plat := rfl

/-- Memory keeps its canonical form through any reset. -/
theorem State.wf_memAfterReset (s : State) (c : ResetCause) (hm : s.mem.wf = true) :
    (s.memAfterReset c).wf = true := by
  cases c <;> try exact hm
  refine Memory.wf_writeAll (p := s.plat.isRam) (fun n hn => ?_) _ (Memory.wf_filter _ hm)
  simp only [Platform.isRam, Bool.and_eq_true, decide_eq_true_eq] at hn
  exact hn.1

/-- No reset changes a byte that is no RAM, and only power-on changes RAM (R309). -/
theorem State.memAfterReset_keeps (s : State) (c : ResetCause) (b : Word)
    (h : s.plat.spaceAt b ≠ .ram ∨ c ≠ .powerOn) :
    (s.memAfterReset c).read b.toNat = s.mem.read b.toNat := by
  cases c <;> try rfl
  have hb : s.plat.spaceAt b ≠ .ram := by simpa using h
  have hn : s.plat.isRam b.toNat = false := by simp [Platform.isRam, hb]
  exact (Memory.read_writeAll_of_not hn _ _).trans
    (Memory.read_filter_of_keep (p := fun n => !s.plat.isRam n) (by simp [hn]) _)

@[simp] theorem State.doReset_sp (s : State) (c : ResetCause) : (s.doReset c).sp = 0x00FF#16 := rfl
@[simp] theorem State.doReset_ccr_i (s : State) (c : ResetCause) : (s.doReset c).ccr.i = true := rfl
@[simp] theorem State.doReset_power (s : State) (c : ResetCause) : (s.doReset c).power = .running := rfl
@[simp] theorem State.doReset_plat (s : State) (c : ResetCause) : (s.doReset c).plat = s.plat := rfl
@[simp] theorem State.doReset_resetCause (s : State) (c : ResetCause) : (s.doReset c).resetCause = c := rfl
@[simp] theorem State.doReset_mem (s : State) (c : ResetCause) :
    (s.doReset c).mem = s.memAfterReset c := rfl

end Sys2Proof.Machine
end

