-- ==== Sys2Proof/Laws/Stores.lean ====
section
/-! SUPPORT. A list of bus writes leaves what State.StoresExactly says: the one lemma that the statements about
storing instructions rest on. -/

namespace Sys2Proof.Machine

@[simp] theorem State.writes_nil (s : State) : s.writes [] = s := rfl

@[simp] theorem State.writes_cons (s : State) (c : Word × Byte) (cs : List (Word × Byte)) :
    s.writes (c :: cs) = (s.write c.1 c.2).writes cs := rfl

theorem State.ramAt_eq (s : State) (a : Word) :
    s.ramAt a = decide (a ≠ copAddress ∧ s.plat.spaceAt a = .ram) := by
  unfold State.ramAt copAddress
  by_cases h : s.plat.spaceAt a = .ram <;> by_cases h' : a = 0xFFFF#16 <;> simp [h, h']

@[simp] theorem State.ramAt_write (s : State) (a : Word) (v : Byte) :
    (s.write a v).ramAt = s.ramAt := by
  funext b
  simp [State.ramAt]

theorem State.writes_cpu (s : State) (cs : List (Word × Byte)) : (s.writes cs).cpu = s.cpu := by
  induction cs generalizing s with
  | nil => rfl
  | cons c cs ih => rw [State.writes_cons, ih]; simp [State.cpu]

theorem State.writes_environment (s : State) (cs : List (Word × Byte)) :
    (s.writes cs).environment = s.environment := by
  induction cs generalizing s with
  | nil => rfl
  | cons c cs ih => rw [State.writes_cons, ih]; simp [State.environment]

theorem State.wf_writes (s : State) (cs : List (Word × Byte)) (hm : s.mem.wf = true) :
    (s.writes cs).mem.wf = true := by
  induction cs generalizing s with
  | nil => exact hm
  | cons c cs ih => exact ih _ (s.wf_write _ _ hm)

theorem State.read_writes_ne (s : State) (cs : List (Word × Byte)) {n : Nat}
    (h : ∀ c ∈ cs, n ≠ c.1.toNat) : (s.writes cs).mem.read n = s.mem.read n := by
  induction cs generalizing s with
  | nil => rfl
  | cons c cs ih =>
    rw [State.writes_cons, ih _ fun d hd => h d (List.mem_cons_of_mem _ hd)]
    exact s.read_mem_write_ne _ _ (h c List.mem_cons_self)

/-- Bus writes at different addresses store exactly their bytes. -/
theorem State.storesExactly_writes (s : State) (cs : List (Word × Byte)) (hm : s.mem.wf = true)
    (hd : (cs.map (·.1)).Nodup) : s.StoresExactly (s.writes cs) cs := by
  induction cs generalizing s with
  | nil => exact ⟨rfl, rfl, rfl, fun _ _ => rfl, fun _ h => by cases h⟩
  | cons c cs ih =>
    simp only [List.map_cons, List.nodup_cons] at hd
    obtain ⟨-, -, h3, -, h5⟩ := ih (s.write c.1 c.2) (s.wf_write _ _ hm) hd.2
    refine ⟨State.writes_environment _ _, rfl, ?_, fun n hn => State.read_writes_ne _ _ hn, ?_⟩
    · rw [State.writes_cons, h3, State.write_stored, State.write_plat, State.recorded]
      split <;> simp_all
    · intro d hmem
      rcases List.mem_cons.1 hmem with rfl | hmem
      · have hn : ∀ e ∈ cs, d.1.toNat ≠ e.1.toNat := fun e he heq =>
          hd.1 (List.mem_map.2 ⟨e, he, (BitVec.eq_of_toNat_eq heq).symm⟩)
        rw [State.writes_cons, State.read_writes_ne _ _ hn, s.read_mem_write_eq _ _ hm, s.ramAt_eq]
        simp
      · have hne : d.1.toNat ≠ c.1.toNat := fun heq =>
          hd.1 (List.mem_map.2 ⟨d, hmem, BitVec.eq_of_toNat_eq heq⟩)
        rw [State.writes_cons, h5 d hmem, State.ramAt_write, s.read_mem_write_ne _ _ hne]

/-- StoresExactly looks at memory, devices, environment and the prefetch record alone. -/
theorem State.StoresExactly.of_eq {s t u : State} {cs : List (Word × Byte)} (h : s.StoresExactly t cs)
    (he : u.environment = t.environment) (hd : u.devices = t.devices) (hs : u.stored = t.stored)
    (hm : u.mem = t.mem) : s.StoresExactly u cs := by
  obtain ⟨h1, h2, h3, h4, h5⟩ := h
  exact ⟨he.trans h1, hd.trans h2, hs.trans h3, fun n hn => by rw [hm, h4 n hn],
    fun c hc => by rw [hm, h5 c hc]⟩

/-- One bus write stores exactly its byte. -/
theorem State.storesExactly_write (s : State) (a : Word) (v : Byte) (hm : s.mem.wf = true) :
    s.StoresExactly (s.write a v) [(a, v)] :=
  s.storesExactly_writes [(a, v)] hm (by simp)

/-- A read looks at memory, devices, environment alone: two states that agree on them read alike. -/
theorem State.read_congr {s t : State} (he : t.environment = s.environment)
    (hd : t.devices = s.devices) (a : Word) (hm : t.mem.read a.toNat = s.mem.read a.toNat) (k : Nat) :
    t.read k a = s.read k a := by
  simp only [State.environment, State.devices, Environment.mk.injEq, Devices.mk.injEq] at he hd
  unfold State.read
  rw [he.2.2.2.2.2]
  generalize s.plat.spaceAt a = space
  have hp : ∀ p, t.portByte k p = s.portByte k p ∧ t.direction p = s.direction p := by
    intro p
    cases p <;> simp [State.portByte, State.latch, State.direction, he, hd]
  cases space <;> simp [he, hd, hm, hp]

/-- A bus write does not look at SP. -/
theorem State.write_with_sp (s : State) (w a : Word) (v : Byte) :
    State.write { s with sp := w } a v = { s.write a v with sp := w } := by
  unfold State.write State.deliver
  split
  · rfl
  · dsimp only
    generalize s.plat.spaceAt a = space
    cases space <;> first | rfl | (rename_i p; cases p <;> rfl)

/-- Bus writes do not look at SP. -/
theorem State.writes_with_sp (s : State) (w : Word) (cs : List (Word × Byte)) :
    State.writes { s with sp := w } cs = { s.writes cs with sp := w } := by
  induction cs generalizing s with
  | nil => rfl
  | cons c cs ih => rw [State.writes_cons, State.write_with_sp, ih]; rfl

/-- A push is a bus write, and SP one lower. -/
theorem State.push_eq (s : State) (v : Byte) :
    s.push v = { s.writes [(s.sp, v)] with sp := s.sp - 1 } := rfl

/-- A push on top of bus writes and a lowered SP. -/
theorem State.push_writes (s : State) (cs : List (Word × Byte)) (w : Word) (v : Byte) :
    State.push { s.writes cs with sp := w } v = { s.writes (cs ++ [(w, v)]) with sp := w - 1 } := by
  rw [State.push_eq, State.writes_with_sp]
  simp [State.writes]

/-- The two pushes of a return address. -/
theorem State.pushPC_eq (s : State) :
    s.pushPC = { s.writes [(s.sp, loByte s.pc), (s.sp - 1, hiByte s.pc)] with sp := s.sp - 2 } := by
  unfold State.pushPC
  rw [State.push_eq s, State.push_writes]
  have : s.sp - 1 - 1 = s.sp - 2 := by bv_omega
  rw [this]
  rfl

/-- The five pushes of an interrupt entry. -/
theorem State.stack_eq (s : State) :
    s.stack = { s.writes [(s.sp, loByte s.pc), (s.sp - 1, hiByte s.pc), (s.sp - 2, s.x), (s.sp - 3, s.a),
      (s.sp - 4, s.ccr.toByte)] with sp := s.sp - 5 } := by
  unfold State.stack
  rw [State.pushPC_eq, State.push_writes, State.push_writes, State.push_writes]
  have h2 : s.sp - 2 - 1 = s.sp - 3 := by bv_omega
  have h3 : s.sp - 3 - 1 = s.sp - 4 := by bv_omega
  have h4 : s.sp - 4 - 1 = s.sp - 5 := by bv_omega
  rw [h2, h3, h4]
  rfl

/-- After bus writes at different addresses, one of RAM among them reads as its byte. -/
theorem State.read_writes (s : State) (cs : List (Word × Byte)) (hm : s.mem.wf = true)
    (hd : (cs.map (·.1)).Nodup) {a : Word} {v : Byte} (hc : (a, v) ∈ cs) (ha : s.ramAt a = true) (k : Nat) :
    (s.writes cs).read k a = v := by
  have h := (s.storesExactly_writes cs hm hd).2.2.2.2 _ hc
  rw [if_pos ha] at h
  have hp : (s.writes cs).plat = s.plat := congrArg Environment.plat (s.writes_environment cs)
  have hr : (s.writes cs).plat.spaceAt a = .ram := by
    rw [hp]
    simp only [State.ramAt, Bool.and_eq_true, beq_iff_eq] at ha
    exact ha.1
  rw [State.read, hr]
  exact h

/-- A store to RAM that is not the instruction's last byte leaves that byte as it was fetched. -/
theorem State.fetchedAfter_write_ne (s : State) {a : Word} (v rr : Byte) (k : Nat) (ha : s.ramAt a = true)
    (h : a ≠ s.pc - 1) : s.fetchedAfter (s.write a v) k rr = rr := by
  rw [s.ramAt_eq, decide_eq_true_eq] at ha
  have hd : (s.write a v).devices = s.devices := by
    simp only [State.write, State.deliver, if_neg ha.1, ha.2]
    rfl
  exact if_pos (State.read_congr (State.writes_environment s [(a, v)]) hd _
    (s.read_mem_write_ne a v fun e => h (BitVec.eq_of_toNat_eq e).symm) k)

/-- A store of another value to the instruction's last byte, in RAM, is what the fetch of that byte finds. -/
theorem State.fetchedAfter_write_eq (s : State) (v rr : Byte) (k : Nat) (hm : s.mem.wf = true)
    (ha : s.ramAt (s.pc - 1) = true) (hv : v ≠ s.read k (s.pc - 1)) :
    s.fetchedAfter (s.write (s.pc - 1) v) k rr = v := by
  have hr : (s.write (s.pc - 1) v).read k (s.pc - 1) = v :=
    s.read_writes [(s.pc - 1, v)] hm (by simp) (by simp) ha k
  simp only [State.fetchedAfter, hr, if_neg hv]

/-- The bytes an interrupt entry leaves alone: those it does not push on. -/
theorem State.read_mem_stack_ne (s : State) {n : Nat} (h0 : n ≠ s.sp.toNat) (h1 : n ≠ (s.sp - 1).toNat)
    (h2 : n ≠ (s.sp - 2).toNat) (h3 : n ≠ (s.sp - 3).toNat) (h4 : n ≠ (s.sp - 4).toNat) :
    s.stack.mem.read n = s.mem.read n := by
  rw [State.stack_eq]
  refine s.read_writes_ne _ fun c hc => ?_
  simp only [List.mem_cons, List.not_mem_nil, or_false] at hc
  rcases hc with rfl | rfl | rfl | rfl | rfl <;> assumption

end Sys2Proof.Machine
end

