-- ==== Sys2Proof/Laws/Operands.lean ====
section
/-! SUPPORT. Operands, branches, post-increments and the read-modify-write shape: what each can do, said once. -/

namespace Sys2Proof.Machine

/-! Addresses and bytes as numbers -/

theorem zext16_eq (b : Byte) : zext16 b = BitVec.ofNat 16 b.toNat := by
  apply BitVec.eq_of_toNat_eq; simp [zext16]

theorem toNat_zext16 (b : Byte) : (zext16 b).toNat = b.toNat := by
  simp [zext16]; omega

theorem hiByte_eq (w : Word) : hiByte w = BitVec.ofNat 8 (w.toNat / 256) := by
  apply BitVec.eq_of_toNat_eq
  rw [hiByte_toNat, BitVec.toNat_ofNat]
  omega

theorem loByte_eq (w : Word) : loByte w = BitVec.ofNat 8 w.toNat := by
  apply BitVec.eq_of_toNat_eq; simp [loByte]

theorem join_eq (h l : Byte) : join h l = BitVec.ofNat 16 (256 * h.toNat + l.toNat) := by
  apply BitVec.eq_of_toNat_eq
  rw [toNat_join, BitVec.toNat_ofNat]
  omega

theorem State.toNat_hx (s : State) : s.hx.toNat = 256 * s.h.toNat + s.x.toNat := toNat_join s.h s.x

theorem toNat_carryByte (c : Bool) : (carryByte c).toNat = c.toNat := by cases c <;> rfl

/-! Branches -/

/-- A branch changes PC alone: to the target where the condition holds (R17, R126). -/
theorem State.branch_eq (s : State) (rr : Byte) (cond : Bool) :
    s.branch rr cond = { s with pc := if cond then s.branchTarget rr else s.pc } := by
  have h : s.pc + sext16 rr = s.branchTarget rr := by
    rw [State.branchTarget, BitVec.ofInt_add, BitVec.ofInt_natCast, BitVec.ofNat_toNat]
    simp [sext16, BitVec.signExtend]
  unfold State.branch
  cases cond <;> simp [h]

@[simp] theorem State.branch_a (s : State) (rr : Byte) (b : Bool) : (s.branch rr b).a = s.a := by
  cases b <;> rfl
@[simp] theorem State.branch_h (s : State) (rr : Byte) (b : Bool) : (s.branch rr b).h = s.h := by
  cases b <;> rfl
@[simp] theorem State.branch_x (s : State) (rr : Byte) (b : Bool) : (s.branch rr b).x = s.x := by
  cases b <;> rfl
@[simp] theorem State.branch_sp (s : State) (rr : Byte) (b : Bool) : (s.branch rr b).sp = s.sp := by
  cases b <;> rfl
@[simp] theorem State.branch_ccr (s : State) (rr : Byte) (b : Bool) : (s.branch rr b).ccr = s.ccr := by
  cases b <;> rfl
@[simp] theorem State.branch_power (s : State) (rr : Byte) (b : Bool) : (s.branch rr b).power = s.power := by
  cases b <;> rfl
@[simp] theorem State.branch_cliWindow (s : State) (rr : Byte) (b : Bool) : (s.branch rr b).cliWindow = s.cliWindow := by
  cases b <;> rfl
@[simp] theorem State.branch_stored (s : State) (rr : Byte) (b : Bool) : (s.branch rr b).stored = s.stored := by
  cases b <;> rfl
@[simp] theorem State.branch_irqLatch (s : State) (rr : Byte) (b : Bool) : (s.branch rr b).irqLatch = s.irqLatch := by
  cases b <;> rfl
@[simp] theorem State.branch_enable (s : State) (rr : Byte) (b : Bool) : (s.branch rr b).enable = s.enable := by
  cases b <;> rfl
@[simp] theorem State.branch_portA (s : State) (rr : Byte) (b : Bool) : (s.branch rr b).portA = s.portA := by
  cases b <;> rfl
@[simp] theorem State.branch_portB (s : State) (rr : Byte) (b : Bool) : (s.branch rr b).portB = s.portB := by
  cases b <;> rfl
@[simp] theorem State.branch_ddrA (s : State) (rr : Byte) (b : Bool) : (s.branch rr b).ddrA = s.ddrA := by
  cases b <;> rfl
@[simp] theorem State.branch_ddrB (s : State) (rr : Byte) (b : Bool) : (s.branch rr b).ddrB = s.ddrB := by
  cases b <;> rfl
@[simp] theorem State.branch_config1 (s : State) (rr : Byte) (b : Bool) : (s.branch rr b).config1 = s.config1 := by
  cases b <;> rfl
@[simp] theorem State.branch_config2 (s : State) (rr : Byte) (b : Bool) : (s.branch rr b).config2 = s.config2 := by
  cases b <;> rfl
@[simp] theorem State.branch_copEnabled (s : State) (rr : Byte) (b : Bool) : (s.branch rr b).copEnabled = s.copEnabled := by
  cases b <;> rfl
@[simp] theorem State.branch_copCounter (s : State) (rr : Byte) (b : Bool) : (s.branch rr b).copCounter = s.copCounter := by
  cases b <;> rfl
@[simp] theorem State.branch_resetCause (s : State) (rr : Byte) (b : Bool) : (s.branch rr b).resetCause = s.resetCause := by
  cases b <;> rfl
@[simp] theorem State.branch_inputs (s : State) (rr : Byte) (b : Bool) : (s.branch rr b).inputs = s.inputs := by
  cases b <;> rfl
@[simp] theorem State.branch_schedule (s : State) (rr : Byte) (b : Bool) : (s.branch rr b).schedule = s.schedule := by
  cases b <;> rfl
@[simp] theorem State.branch_mem (s : State) (rr : Byte) (b : Bool) : (s.branch rr b).mem = s.mem := by
  cases b <;> rfl
@[simp] theorem State.branch_draws (s : State) (rr : Byte) (b : Bool) : (s.branch rr b).draws = s.draws := by
  cases b <;> rfl
@[simp] theorem State.branch_outputs (s : State) (rr : Byte) (b : Bool) : (s.branch rr b).outputs = s.outputs := by
  cases b <;> rfl
@[simp] theorem State.branch_plat (s : State) (rr : Byte) (b : Bool) : (s.branch rr b).plat = s.plat := by
  cases b <;> rfl

/-! Post-increments -/

@[simp] theorem State.postIncrement_a (s : State) (m : CmpOperand) : (s.postIncrement m).a = s.a := by
  cases m <;> rfl
@[simp] theorem State.postIncrement_sp (s : State) (m : CmpOperand) : (s.postIncrement m).sp = s.sp := by
  cases m <;> rfl
@[simp] theorem State.postIncrement_pc (s : State) (m : CmpOperand) : (s.postIncrement m).pc = s.pc := by
  cases m <;> rfl
@[simp] theorem State.postIncrement_ccr (s : State) (m : CmpOperand) : (s.postIncrement m).ccr = s.ccr := by
  cases m <;> rfl
@[simp] theorem State.postIncrement_power (s : State) (m : CmpOperand) : (s.postIncrement m).power = s.power := by
  cases m <;> rfl
@[simp] theorem State.postIncrement_cliWindow (s : State) (m : CmpOperand) : (s.postIncrement m).cliWindow = s.cliWindow := by
  cases m <;> rfl
@[simp] theorem State.postIncrement_stored (s : State) (m : CmpOperand) : (s.postIncrement m).stored = s.stored := by
  cases m <;> rfl
@[simp] theorem State.postIncrement_irqLatch (s : State) (m : CmpOperand) : (s.postIncrement m).irqLatch = s.irqLatch := by
  cases m <;> rfl
@[simp] theorem State.postIncrement_enable (s : State) (m : CmpOperand) : (s.postIncrement m).enable = s.enable := by
  cases m <;> rfl
@[simp] theorem State.postIncrement_portA (s : State) (m : CmpOperand) : (s.postIncrement m).portA = s.portA := by
  cases m <;> rfl
@[simp] theorem State.postIncrement_portB (s : State) (m : CmpOperand) : (s.postIncrement m).portB = s.portB := by
  cases m <;> rfl
@[simp] theorem State.postIncrement_ddrA (s : State) (m : CmpOperand) : (s.postIncrement m).ddrA = s.ddrA := by
  cases m <;> rfl
@[simp] theorem State.postIncrement_ddrB (s : State) (m : CmpOperand) : (s.postIncrement m).ddrB = s.ddrB := by
  cases m <;> rfl
@[simp] theorem State.postIncrement_config1 (s : State) (m : CmpOperand) : (s.postIncrement m).config1 = s.config1 := by
  cases m <;> rfl
@[simp] theorem State.postIncrement_config2 (s : State) (m : CmpOperand) : (s.postIncrement m).config2 = s.config2 := by
  cases m <;> rfl
@[simp] theorem State.postIncrement_copEnabled (s : State) (m : CmpOperand) : (s.postIncrement m).copEnabled = s.copEnabled := by
  cases m <;> rfl
@[simp] theorem State.postIncrement_copCounter (s : State) (m : CmpOperand) : (s.postIncrement m).copCounter = s.copCounter := by
  cases m <;> rfl
@[simp] theorem State.postIncrement_resetCause (s : State) (m : CmpOperand) : (s.postIncrement m).resetCause = s.resetCause := by
  cases m <;> rfl
@[simp] theorem State.postIncrement_inputs (s : State) (m : CmpOperand) : (s.postIncrement m).inputs = s.inputs := by
  cases m <;> rfl
@[simp] theorem State.postIncrement_schedule (s : State) (m : CmpOperand) : (s.postIncrement m).schedule = s.schedule := by
  cases m <;> rfl
@[simp] theorem State.postIncrement_mem (s : State) (m : CmpOperand) : (s.postIncrement m).mem = s.mem := by
  cases m <;> rfl
@[simp] theorem State.postIncrement_draws (s : State) (m : CmpOperand) : (s.postIncrement m).draws = s.draws := by
  cases m <;> rfl
@[simp] theorem State.postIncrement_outputs (s : State) (m : CmpOperand) : (s.postIncrement m).outputs = s.outputs := by
  cases m <;> rfl
@[simp] theorem State.postIncrement_plat (s : State) (m : CmpOperand) : (s.postIncrement m).plat = s.plat := by
  cases m <;> rfl

@[simp] theorem State.moveIncrement_a (s : State) (m : Move) : (s.moveIncrement m).a = s.a := by
  cases m <;> rfl
@[simp] theorem State.moveIncrement_sp (s : State) (m : Move) : (s.moveIncrement m).sp = s.sp := by
  cases m <;> rfl
@[simp] theorem State.moveIncrement_pc (s : State) (m : Move) : (s.moveIncrement m).pc = s.pc := by
  cases m <;> rfl
@[simp] theorem State.moveIncrement_ccr (s : State) (m : Move) : (s.moveIncrement m).ccr = s.ccr := by
  cases m <;> rfl
@[simp] theorem State.moveIncrement_power (s : State) (m : Move) : (s.moveIncrement m).power = s.power := by
  cases m <;> rfl
@[simp] theorem State.moveIncrement_cliWindow (s : State) (m : Move) : (s.moveIncrement m).cliWindow = s.cliWindow := by
  cases m <;> rfl
@[simp] theorem State.moveIncrement_stored (s : State) (m : Move) : (s.moveIncrement m).stored = s.stored := by
  cases m <;> rfl
@[simp] theorem State.moveIncrement_irqLatch (s : State) (m : Move) : (s.moveIncrement m).irqLatch = s.irqLatch := by
  cases m <;> rfl
@[simp] theorem State.moveIncrement_enable (s : State) (m : Move) : (s.moveIncrement m).enable = s.enable := by
  cases m <;> rfl
@[simp] theorem State.moveIncrement_portA (s : State) (m : Move) : (s.moveIncrement m).portA = s.portA := by
  cases m <;> rfl
@[simp] theorem State.moveIncrement_portB (s : State) (m : Move) : (s.moveIncrement m).portB = s.portB := by
  cases m <;> rfl
@[simp] theorem State.moveIncrement_ddrA (s : State) (m : Move) : (s.moveIncrement m).ddrA = s.ddrA := by
  cases m <;> rfl
@[simp] theorem State.moveIncrement_ddrB (s : State) (m : Move) : (s.moveIncrement m).ddrB = s.ddrB := by
  cases m <;> rfl
@[simp] theorem State.moveIncrement_config1 (s : State) (m : Move) : (s.moveIncrement m).config1 = s.config1 := by
  cases m <;> rfl
@[simp] theorem State.moveIncrement_config2 (s : State) (m : Move) : (s.moveIncrement m).config2 = s.config2 := by
  cases m <;> rfl
@[simp] theorem State.moveIncrement_copEnabled (s : State) (m : Move) : (s.moveIncrement m).copEnabled = s.copEnabled := by
  cases m <;> rfl
@[simp] theorem State.moveIncrement_copCounter (s : State) (m : Move) : (s.moveIncrement m).copCounter = s.copCounter := by
  cases m <;> rfl
@[simp] theorem State.moveIncrement_resetCause (s : State) (m : Move) : (s.moveIncrement m).resetCause = s.resetCause := by
  cases m <;> rfl
@[simp] theorem State.moveIncrement_inputs (s : State) (m : Move) : (s.moveIncrement m).inputs = s.inputs := by
  cases m <;> rfl
@[simp] theorem State.moveIncrement_schedule (s : State) (m : Move) : (s.moveIncrement m).schedule = s.schedule := by
  cases m <;> rfl
@[simp] theorem State.moveIncrement_mem (s : State) (m : Move) : (s.moveIncrement m).mem = s.mem := by
  cases m <;> rfl
@[simp] theorem State.moveIncrement_draws (s : State) (m : Move) : (s.moveIncrement m).draws = s.draws := by
  cases m <;> rfl
@[simp] theorem State.moveIncrement_outputs (s : State) (m : Move) : (s.moveIncrement m).outputs = s.outputs := by
  cases m <;> rfl
@[simp] theorem State.moveIncrement_plat (s : State) (m : Move) : (s.moveIncrement m).plat = s.plat := by
  cases m <;> rfl

/-! The read-modify-write shape -/

/-- On a byte of memory: one write of the result, the flags, and nothing else (R62). -/
theorem State.modify_stores (s : State) (m : MemOperand) (result : Byte → Byte) (flags : CCR → Byte → CCR)
    (hm : s.mem.wf = true) :
    (s.modify m result flags).cpu = { s.cpu with ccr := flags s.ccr (s.read 0 (s.ea m)) } ∧
    s.StoresExactly (s.modify m result flags) [(s.ea m, result (s.read 0 (s.ea m)))] := by
  refine ⟨?_, (s.storesExactly_write _ _ hm).of_eq rfl rfl rfl rfl⟩
  simp [State.modify, State.cpu]

end Sys2Proof.Machine
end

