-- ==== Sys2Proof/Laws/Boundary.lean ====
section
/-! SUPPORT. What one step can do, said once: five cases of a next state and one of a refusal. Invariants follow
from these, not from unfolding the step. -/

namespace Sys2Proof.Machine

/-- A boundary with nothing scheduled: the inputs settle (log 9). -/
theorem State.arrive_of_nil {s : State} (h : s.schedule = []) :
    s.arrive = { s with
      draws := s.draws + 1, inputs := s.inputs.settled
      irqLatch := s.irqLatch || (s.inputs.irqPin && !s.inputs.irqPinLater) } := by
  unfold State.arrive State.sample
  simp only [h]
  simp [State.observe, Inputs.settled]

/-- A boundary with inputs scheduled: it takes the first (log 9). -/
theorem State.arrive_of_cons {s : State} {e : Inputs} {rest : List Inputs} (h : s.schedule = e :: rest) :
    s.arrive = { s with
      draws := s.draws + 1, inputs := e, schedule := rest
      irqLatch := s.irqLatch || (s.inputs.irqPin && !s.inputs.irqPinLater)
        || (s.inputs.irqPinLater && !e.irqPin) || e.irqRequest } := by
  unfold State.arrive State.sample
  simp only [h]
  rfl

/-- The boundary events, in order (R326, R327). -/
theorem step_eq (s : State) :
    step s = match s.arrive.resetRequest with
      | some cause => .next (s.arrive.doReset cause)
      | none => match s.arrive.interrupt with
        | some q => .next (s.arrive.takeHardware q)
        | none => match s.power with
          | .running => s.arrive.runInstr
          | .waiting | .stopped => .next s.arrive.idle := by
  cases h1 : s.arrive.resetRequest <;> cases h2 : s.arrive.interrupt <;> cases h3 : s.power <;>
    simp [step, State.cycle, State.act, h1, h2, h3]

/-- The fetch, in order (R326 item 3). -/
theorem State.runInstr_eq (s : State) :
    s.runInstr =
      if s.plat.illegalFetch s.pc then .next (s.doReset .illegalAddress)
      else if s.pc ∈ s.stored then .refused .storeToNextOpcode
      else match decode s.fetchBytes with
        | .error _ => .next (s.doReset .illegalOpcode)
        | .ok (i, rest) => exec i (s.begin (4 - rest.length) i.cycles) := by
  unfold State.runInstr
  by_cases hi : s.plat.illegalFetch s.pc = true
  · rw [if_pos hi, if_pos hi]
  · rw [if_neg hi, if_neg hi]
    by_cases hs : s.pc ∈ s.stored
    · rw [if_pos hs, if_pos (List.contains_iff_mem.2 hs)]
    · exact (if_neg fun h => hs (List.contains_iff_mem.1 h)).trans (if_neg hs).symm

/-- Everything a step that answers a next state can have done. -/
theorem step_next_cases {s t : State} (h : step s = .next t) :
    (∃ c, t = s.arrive.doReset c) ∨
    (s.arrive.resetRequest = none ∧ ∃ q, s.arrive.interrupt = some q ∧ t = s.arrive.takeHardware q) ∨
    (s.arrive.resetRequest = none ∧ s.arrive.interrupt = none ∧ s.power ≠ .running ∧
      t = s.arrive.idle) ∨
    (s.arrive.resetRequest = none ∧ s.arrive.interrupt = none ∧ s.power = .running ∧
      ∃ i rest, decode s.arrive.fetchBytes = .ok (i, rest) ∧
        exec i (s.arrive.begin (4 - rest.length) i.cycles) = .next t) := by
  rw [step_eq] at h
  split at h
  · next c _ => cases h; exact .inl ⟨c, rfl⟩
  · next hr =>
    split at h
    · next q hq => cases h; exact .inr (.inl ⟨hr, q, hq, rfl⟩)
    · next hi =>
      split at h
      · next hp =>
        rw [State.runInstr_eq] at h
        split at h
        · cases h; exact .inl ⟨_, rfl⟩
        · split at h
          · cases h
          · split at h
            · cases h; exact .inl ⟨_, rfl⟩
            · next i rest hd => exact .inr (.inr (.inr ⟨hr, hi, hp, i, rest, hd, h⟩))
      · next hp => cases h; exact .inr (.inr (.inl ⟨hr, hi, by simp [hp], rfl⟩))
      · next hp => cases h; exact .inr (.inr (.inl ⟨hr, hi, by simp [hp], rfl⟩))

/-- Taking a hardware interrupt keeps the canonical form. -/
theorem State.wf_takeHardware (s : State) (q : SourceEntry) (hm : s.mem.wf = true) :
    (s.takeHardware q).mem.wf = true := s.wf_stack hm

@[simp] theorem State.takeHardware_power (s : State) (q : SourceEntry) :
    (s.takeHardware q).power = .running := rfl
@[simp] theorem State.takeHardware_plat (s : State) (q : SourceEntry) :
    (s.takeHardware q).plat = s.plat := by simp [State.takeHardware]
@[simp] theorem State.takeHardware_mem (s : State) (q : SourceEntry) :
    (s.takeHardware q).mem = s.stack.mem := rfl

end Sys2Proof.Machine
end

