-- ==== Sys2Proof/Laws/Image.lean ====
section
/-! SUPPORT. What loading an image can do, said once: the image it refuses, and the state it gives. -/

namespace Sys2Proof.Machine

/-- Memory lies inside the address space. -/
theorem Platform.isMemory_lt {p : Platform} {n : Nat} (h : p.isMemory n = true) : n < 65536 := by
  simp only [Platform.isMemory, Bool.and_eq_true, decide_eq_true_eq] at h
  exact h.1

@[simp] theorem Platform.isMemory_toNat (p : Platform) (a : Word) :
    p.isMemory a.toNat = (p.spaceAt a).isMemory := by
  simp [Platform.isMemory, a.isLt]

/-- An image fills a byte where memory lies and it has a cell for it, whatever the value (R354). -/
theorem Image.fills_iff (i : Image) (p : Platform) (a : Word) :
    i.fills p a = true ↔ (p.spaceAt a).isMemory = true ∧ ∃ c ∈ i.cells, c.1 = a.toNat := by
  simp [Image.fills]

/-- The vectors an image must program (R354, U8). -/
theorem Image.mem_vectors (i : Image) (p : Platform) (v : Word) :
    v ∈ i.vectors p ↔ v = resetVector ∨ (i.usesSwi = true ∧ v = swiVector) ∨
      ∃ e ∈ p.sources, e.source ∈ i.enables ∧ e.vector = v := by
  unfold Image.vectors
  by_cases h : i.usesSwi = true <;> simp [h, and_assoc]

/-- An image that loads programs every vector it uses, and gives the image in memory and PC at the reset vector. -/
theorem State.load_ok_iff (s t : State) (i : Image) :
    s.load i = .ok t ↔ (∀ v ∈ i.vectors s.plat, i.programs s.plat v = true) ∧
      t = { s.withImage i with pc := (s.withImage i).read16 0 resetVector } := by
  unfold State.load
  split
  · next v h =>
    have hm := List.mem_of_find?_eq_some h
    have hv := List.find?_some h
    refine ⟨fun e => (by cases e), fun e => ?_⟩
    rw [e.1 v hm] at hv
    cases hv
  · next h =>
    rw [List.find?_eq_none] at h
    refine ⟨fun e => ⟨fun v hv => by simpa using h v hv, ?_⟩, fun e => ?_⟩
    · cases e; rfl
    · rw [e.2]

/-- The vector for which an image is refused is one it uses and does not program. -/
theorem State.load_error {s : State} {i : Image} {v : Word} (h : s.load i = .error (.unprogrammed v)) :
    v ∈ i.vectors s.plat ∧ i.programs s.plat v = false := by
  unfold State.load at h
  split at h
  · next w hw =>
    cases h
    exact ⟨List.mem_of_find?_eq_some hw, by simpa using List.find?_some hw⟩
  · cases h

/-- Loading keeps the canonical form of memory. -/
theorem State.wf_withImage (s : State) (i : Image) (hm : s.mem.wf = true) : (s.withImage i).mem.wf = true :=
  Memory.wf_writeAll (fun _ h => Platform.isMemory_lt h) _ hm

end Sys2Proof.Machine
end

