-- ==== Sys2Proof/Laws/Numbers.lean ====
section
/-! SUPPORT. Bits, flags and results as numbers: the bridge from the bit operations of the meanings to the integers
the statements speak of; after it, omega finishes. -/

namespace Sys2Proof.Machine

theorem getLsbD_seven (r : Byte) : r.getLsbD 7 = decide (128 ≤ r.toNat) := by
  have := BitVec.msb_eq_decide r
  simpa [BitVec.msb_eq_getLsbD_last] using this

theorem getElem_seven (r : Byte) : r[7] = decide (128 ≤ r.toNat) := getLsbD_seven r

theorem getLsbD_fifteen (r : Word) : r.getLsbD 15 = decide (32768 ≤ r.toNat) := by
  have := BitVec.msb_eq_decide r
  simpa [BitVec.msb_eq_getLsbD_last] using this

theorem getElem_fifteen (r : Word) : r[15] = decide (32768 ≤ r.toNat) := getLsbD_fifteen r

theorem getLsbD_three (r : Byte) : r.getLsbD 3 = decide (8 ≤ r.toNat % 16) := by
  rw [BitVec.getLsbD, Nat.testBit_eq_decide_div_mod_eq, decide_eq_decide]
  omega

theorem beq_zero_byte (r : Byte) : (r == 0#8) = decide (r.toNat = 0) := by
  rw [Bool.eq_iff_iff]
  simp [← BitVec.toNat_inj]

theorem beq_zero_word (r : Word) : (r == 0#16) = decide (r.toNat = 0) := by
  rw [Bool.eq_iff_iff]
  simp [← BitVec.toNat_inj]

theorem toInt_byte (r : Byte) :
    r.toInt = if r.toNat < 128 then (r.toNat : Int) else r.toNat - 256 := by
  rw [BitVec.toInt_eq_toNat_cond]
  have : 2 * r.toNat < 2 ^ 8 ↔ r.toNat < 128 := by omega
  simp only [this]
  rfl

theorem toInt_word (r : Word) :
    r.toInt = if r.toNat < 32768 then (r.toNat : Int) else r.toNat - 65536 := by
  rw [BitVec.toInt_eq_toNat_cond]
  have : 2 * r.toNat < 2 ^ 16 ↔ r.toNat < 32768 := by omega
  simp only [this]
  rfl

theorem sub_one_word (w : Word) : BitVec.ofInt 16 (w.toNat - 1) = w - 1 := by
  apply BitVec.eq_of_toNat_eq
  simp [BitVec.toNat_sub]
  omega

theorem add_one_word (w : Word) : BitVec.ofNat 16 (w.toNat + 1) = w + 1 := by
  apply BitVec.eq_of_toNat_eq
  simp [BitVec.toNat_add]

/-- The result of an addition (R170). -/
theorem toNat_addResult (a m : Byte) (c : Bool) :
    (addResult a m c).toNat = (a.toNat + m.toNat + c.toNat) % 256 := by
  simp [addResult, BitVec.toNat_add, toNat_carryByte]

/-- The result of a subtraction (R171). -/
theorem toNat_subResult (a m : Byte) (c : Bool) :
    (subResult a m c).toNat = (((a.toNat : Int) - m.toNat - c.toNat) % 256).toNat := by
  have := Bool.toNat_le c
  simp [subResult, BitVec.toNat_sub, toNat_carryByte]
  omega

/-- N and Z from a byte, as numbers (R15). -/
theorem CCR.move8_eq (f : CCR) (r : Byte) :
    f.move8 r = { f with v := false, n := decide (128 ≤ r.toNat), z := decide (r.toNat = 0) } := by
  simp only [CCR.move8, CCR.nz8, getLsbD_seven, beq_zero_byte]

/-- N and Z from a word, as numbers (R15). -/
theorem CCR.move16_eq (f : CCR) (r : Word) :
    f.move16 r = { f with v := false, n := decide (32768 ≤ r.toNat), z := decide (r.toNat = 0) } := by
  simp only [CCR.move16, CCR.nz16, getLsbD_fifteen, beq_zero_word]

end Sys2Proof.Machine
end

