-- ==== Sys2Proof/Laws/Sources.lean ====
section
/-! SUPPORT. Interrupt sources: the bits of a source, and what arbitration answers. -/

namespace Sys2Proof.Machine

theorem mem_withNumber (n m : Nat) (l : List Nat) : m ∈ withNumber n l ↔ m = n ∨ m ∈ l := by
  induction l with
  | nil => simp [withNumber]
  | cons k l ih =>
    simp only [withNumber]
    split
    · simp
    · split
      · next h => subst h; simp
      · rw [List.mem_cons, ih, List.mem_cons, or_left_comm]

/-- Setting one source's bit sets that bit alone. -/
theorem SourceFlags.get_set (f : SourceFlags) (q q' : IntSource) (b : Bool) :
    (f.set q b).get q' = if q' = q then b else f.get q' := by
  cases q <;> cases q' <;> try rfl
  next n m =>
    by_cases e : m = n
    · subst e
      cases b <;> simp [SourceFlags.set, SourceFlags.get, mem_withNumber]
    · cases b <;> simp [SourceFlags.set, SourceFlags.get, mem_withNumber, e]

/-- A write that no entry of the list names for a source leaves that source's bit. -/
theorem SourceFlags.get_foldl_of_not_mem (l : List EnableBit) (f : SourceFlags) (a : Nat) (v : Byte)
    {q : IntSource} (h : ∀ e ∈ l, ¬(e.address = a ∧ e.source = q)) :
    (l.foldl (fun f e => if e.address = a then f.set e.source (bitOf v e.bit) else f) f).get q = f.get q := by
  induction l generalizing f with
  | nil => rfl
  | cons e l ih =>
    rw [List.foldl_cons, ih _ fun d hd => h d (List.mem_cons_of_mem _ hd)]
    split
    · next ha => rw [SourceFlags.get_set, if_neg fun c => h e List.mem_cons_self ⟨ha, c.symm⟩]
    · rfl

/-- A write at an entry's address gives its source the bit of the byte, where that entry is the only one of its
address and source. -/
theorem SourceFlags.get_afterWrite (f : SourceFlags) (p : Platform) (a : Word) (v : Byte) {e : EnableBit}
    (he : e ∈ p.enableBits) (ha : e.address = a.toNat)
    (hu : ∀ d ∈ p.enableBits, d.address = a.toNat → d.source = e.source → d = e) :
    (f.afterWrite p a v).get e.source = bitOf v e.bit := by
  unfold SourceFlags.afterWrite
  generalize p.enableBits = l at he hu
  induction l generalizing f with
  | nil => cases he
  | cons d l ih =>
    rw [List.foldl_cons]
    by_cases hl : e ∈ l
    · exact ih _ hl fun c hc => hu c (List.mem_cons_of_mem _ hc)
    · obtain rfl : e = d := (List.mem_cons.1 he).resolve_right hl
      rw [SourceFlags.get_foldl_of_not_mem _ _ _ _ fun c hc hcs =>
        hl (hu c (List.mem_cons_of_mem _ hc) hcs.1 hcs.2 ▸ hc), if_pos ha, SourceFlags.get_set, if_pos rfl]

/-- A write leaves the bit of a source that no entry of the address names. -/
theorem SourceFlags.get_afterWrite_of_not_mem (f : SourceFlags) (p : Platform) (a : Word) (v : Byte)
    {q : IntSource} (h : ∀ e ∈ p.enableBits, ¬(e.address = a.toNat ∧ e.source = q)) :
    (f.afterWrite p a v).get q = f.get q :=
  SourceFlags.get_foldl_of_not_mem _ _ _ _ h

@[simp] theorem SourceEntry.highest_nil : SourceEntry.highest [] = none := rfl

theorem SourceEntry.highest_eq_none {l : List SourceEntry} : SourceEntry.highest l = none ↔ l = [] := by
  cases l with
  | nil => simp
  | cons e l =>
    simp only [SourceEntry.highest]
    split
    · simp
    · split <;> simp

/-- The entry arbitration answers is one of the list, and none has a higher priority. -/
theorem SourceEntry.highest_some {l : List SourceEntry} {e : SourceEntry}
    (h : SourceEntry.highest l = some e) : e ∈ l ∧ ∀ f ∈ l, e.priority ≤ f.priority := by
  induction l generalizing e with
  | nil => cases h
  | cons d l ih =>
    simp only [SourceEntry.highest] at h
    split at h
    · next hn =>
      cases h
      rw [SourceEntry.highest_eq_none.1 hn]
      simp
    · next f hf =>
      obtain ⟨hm, hle⟩ := ih hf
      split at h <;> cases h
      · next hp =>
        exact ⟨List.mem_cons_self, fun g hg => by
          rcases List.mem_cons.1 hg with rfl | hg
          · exact Nat.le_refl _
          · exact Nat.le_trans hp (hle g hg)⟩
      · next hp =>
        exact ⟨List.mem_cons_of_mem _ hm, fun g hg => by
          rcases List.mem_cons.1 hg with rfl | hg
          · omega
          · exact hle g hg⟩

/-- Which sources present a request (R311, R318, R342). -/
theorem State.presents_iff (s : State) (e : SourceEntry) :
    s.presents e = true ↔ s.pending e.source = true ∧ s.enable.get e.source = true ∧
      (s.power = .stopped → e.source ∈ s.plat.stopWakers) := by
  unfold State.presents State.canWake
  cases s.power <;> simp [and_assoc]

/-- A request is one of the part's sources that present one, and none that does has a higher priority. -/
theorem State.request_some {s : State} {e : SourceEntry} (h : s.request = some e) :
    (e ∈ s.plat.sources ∧ s.presents e = true) ∧
      ∀ f ∈ s.plat.sources, s.presents f = true → e.priority ≤ f.priority := by
  obtain ⟨hm, hle⟩ := SourceEntry.highest_some h
  exact ⟨List.mem_filter.1 hm, fun f hf hp => hle f (List.mem_filter.2 ⟨hf, hp⟩)⟩

/-- There is no request exactly where no source of the part presents one. -/
theorem State.request_none (s : State) :
    s.request = none ↔ ∀ e ∈ s.plat.sources, s.presents e ≠ true := by
  unfold State.request
  rw [SourceEntry.highest_eq_none, List.filter_eq_nil_iff]

end Sys2Proof.Machine
end

