-- ==== Sys2Proof/Tests/Slice0.lean ====
section
/-! SUPPORT. Tests of the model. Expected values come from the spec: the opcode table (30_encoding.md) and the
test vectors (95_test_vectors.md), whose ids the docstrings name. The witnesses at the end show, for each statement
with hypotheses, a state that meets them. -/

open Sys2Proof Sys2Proof.Machine

namespace Sys2Proof.Tests

set_option Elab.async false

/-! Well-formedness: each operand form an instruction does not have is refused. -/

theorem test_wellFormed_rmw :
    ([MemOperand.ext 0x1234#16, .ix2 0x1234#16, .sp2 0x1234#16].all fun m =>
      [Instr.neg m, .com m, .lsr m, .ror m, .asr m, .lsl m, .rol m, .dec m, .inc m, .tst m, .clr m,
        .dbnz m 0x10#8].all fun i => !i.wellFormed && (encode i).isEmpty) = true := by decide

theorem test_wellFormed_jump :
    ([MemOperand.sp1 0x05#8, .sp2 0x1234#16].all fun m =>
      [Instr.jmp m, .jsr m].all fun i => !i.wellFormed && (encode i).isEmpty) = true := by decide

/-! Decoding: every row of the opcode table, its bytes from the table's encoding with the bit number 5 and
distinct operand bytes; the encoder gives the bytes back, and the cycles are the table's. -/

/-- One row of the opcode table. -/
structure Row where
  bytes : List Nat
  instr : Instr
  cycles : Nat

/-- Every row decodes to its instruction, which encodes to its bytes and takes its cycles. -/
def rowsDecode (rows : List Row) : Bool :=
  rows.all fun r =>
    let bs := r.bytes.map (BitVec.ofNat 8)
    (match decode bs with
      | .ok (i, rest) => i == r.instr && rest.isEmpty
      | .error _ => false) &&
    r.instr.wellFormed && encode r.instr == bs && r.instr.cycles == r.cycles

theorem test_decode_column_0_1 : rowsDecode [
    ⟨[0x0A, 0x52, 0xA7], .brset 5 0x52#8 0xA7#8, 5⟩,
    ⟨[0x0B, 0x52, 0xA7], .brclr 5 0x52#8 0xA7#8, 5⟩,
    ⟨[0x1A, 0x52], .bset 5 0x52#8, 4⟩,
    ⟨[0x1B, 0x52], .bclr 5 0x52#8, 4⟩] = true := by decide +kernel

theorem test_decode_column_2 : rowsDecode [
    ⟨[0x20, 0x52], .bra 0x52#8, 3⟩,
    ⟨[0x21, 0x52], .brn 0x52#8, 3⟩,
    ⟨[0x22, 0x52], .bhi 0x52#8, 3⟩,
    ⟨[0x23, 0x52], .bls 0x52#8, 3⟩,
    ⟨[0x24, 0x52], .bcc 0x52#8, 3⟩,
    ⟨[0x25, 0x52], .bcs 0x52#8, 3⟩,
    ⟨[0x26, 0x52], .bne 0x52#8, 3⟩,
    ⟨[0x27, 0x52], .beq 0x52#8, 3⟩,
    ⟨[0x28, 0x52], .bhcc 0x52#8, 3⟩,
    ⟨[0x29, 0x52], .bhcs 0x52#8, 3⟩,
    ⟨[0x2A, 0x52], .bpl 0x52#8, 3⟩,
    ⟨[0x2B, 0x52], .bmi 0x52#8, 3⟩,
    ⟨[0x2C, 0x52], .bmc 0x52#8, 3⟩,
    ⟨[0x2D, 0x52], .bms 0x52#8, 3⟩,
    ⟨[0x2E, 0x52], .bil 0x52#8, 3⟩,
    ⟨[0x2F, 0x52], .bih 0x52#8, 3⟩] = true := by decide +kernel

theorem test_decode_column_3 : rowsDecode [
    ⟨[0x30, 0x52], .neg (.dir 0x52#8), 4⟩,
    ⟨[0x33, 0x52], .com (.dir 0x52#8), 4⟩,
    ⟨[0x34, 0x52], .lsr (.dir 0x52#8), 4⟩,
    ⟨[0x36, 0x52], .ror (.dir 0x52#8), 4⟩,
    ⟨[0x37, 0x52], .asr (.dir 0x52#8), 4⟩,
    ⟨[0x38, 0x52], .lsl (.dir 0x52#8), 4⟩,
    ⟨[0x39, 0x52], .rol (.dir 0x52#8), 4⟩,
    ⟨[0x3A, 0x52], .dec (.dir 0x52#8), 4⟩,
    ⟨[0x3C, 0x52], .inc (.dir 0x52#8), 4⟩,
    ⟨[0x3D, 0x52], .tst (.dir 0x52#8), 3⟩,
    ⟨[0x3F, 0x52], .clr (.dir 0x52#8), 3⟩,
    ⟨[0x31, 0x52, 0xA7], .cbeq (.dir 0x52#8) 0xA7#8, 5⟩,
    ⟨[0x3B, 0x52, 0xA7], .dbnz (.dir 0x52#8) 0xA7#8, 5⟩,
    ⟨[0x35, 0x52], .sthx 0x52#8, 4⟩] = true := by decide +kernel

theorem test_decode_column_4 : rowsDecode [
    ⟨[0x40], .nega, 1⟩,
    ⟨[0x43], .coma, 1⟩,
    ⟨[0x44], .lsra, 1⟩,
    ⟨[0x46], .rora, 1⟩,
    ⟨[0x47], .asra, 1⟩,
    ⟨[0x48], .lsla, 1⟩,
    ⟨[0x49], .rola, 1⟩,
    ⟨[0x4A], .deca, 1⟩,
    ⟨[0x4C], .inca, 1⟩,
    ⟨[0x4D], .tsta, 1⟩,
    ⟨[0x4F], .clra, 1⟩,
    ⟨[0x41, 0x52, 0xA7], .cbeqa 0x52#8 0xA7#8, 4⟩,
    ⟨[0x4B, 0x52], .dbnza 0x52#8, 3⟩,
    ⟨[0x42], .mul, 5⟩,
    ⟨[0x45, 0x52, 0xA7], .ldhx (.imm 0x52A7#16), 3⟩,
    ⟨[0x4E, 0x52, 0xA7], .mov (.dirDir 0x52#8 0xA7#8), 5⟩] = true := by decide +kernel

theorem test_decode_column_5 : rowsDecode [
    ⟨[0x50], .negx, 1⟩,
    ⟨[0x53], .comx, 1⟩,
    ⟨[0x54], .lsrx, 1⟩,
    ⟨[0x56], .rorx, 1⟩,
    ⟨[0x57], .asrx, 1⟩,
    ⟨[0x58], .lslx, 1⟩,
    ⟨[0x59], .rolx, 1⟩,
    ⟨[0x5A], .decx, 1⟩,
    ⟨[0x5C], .incx, 1⟩,
    ⟨[0x5D], .tstx, 1⟩,
    ⟨[0x5F], .clrx, 1⟩,
    ⟨[0x51, 0x52, 0xA7], .cbeqx 0x52#8 0xA7#8, 4⟩,
    ⟨[0x5B, 0x52], .dbnzx 0x52#8, 3⟩,
    ⟨[0x52], .div, 7⟩,
    ⟨[0x55, 0x52], .ldhx (.dir 0x52#8), 4⟩,
    ⟨[0x5E, 0x52], .mov (.dirIxInc 0x52#8), 4⟩] = true := by decide +kernel

theorem test_decode_column_6 : rowsDecode [
    ⟨[0x60, 0x52], .neg (.ix1 0x52#8), 4⟩,
    ⟨[0x63, 0x52], .com (.ix1 0x52#8), 4⟩,
    ⟨[0x64, 0x52], .lsr (.ix1 0x52#8), 4⟩,
    ⟨[0x66, 0x52], .ror (.ix1 0x52#8), 4⟩,
    ⟨[0x67, 0x52], .asr (.ix1 0x52#8), 4⟩,
    ⟨[0x68, 0x52], .lsl (.ix1 0x52#8), 4⟩,
    ⟨[0x69, 0x52], .rol (.ix1 0x52#8), 4⟩,
    ⟨[0x6A, 0x52], .dec (.ix1 0x52#8), 4⟩,
    ⟨[0x6C, 0x52], .inc (.ix1 0x52#8), 4⟩,
    ⟨[0x6D, 0x52], .tst (.ix1 0x52#8), 3⟩,
    ⟨[0x6F, 0x52], .clr (.ix1 0x52#8), 3⟩,
    ⟨[0x61, 0x52, 0xA7], .cbeq (.ix1Inc 0x52#8) 0xA7#8, 5⟩,
    ⟨[0x6B, 0x52, 0xA7], .dbnz (.ix1 0x52#8) 0xA7#8, 5⟩,
    ⟨[0x62], .nsa, 3⟩,
    ⟨[0x65, 0x52, 0xA7], .cphx (.imm 0x52A7#16), 3⟩,
    ⟨[0x6E, 0x52, 0xA7], .mov (.immDir 0x52#8 0xA7#8), 4⟩] = true := by decide +kernel

theorem test_decode_column_7 : rowsDecode [
    ⟨[0x70], .neg .ix, 3⟩,
    ⟨[0x73], .com .ix, 3⟩,
    ⟨[0x74], .lsr .ix, 3⟩,
    ⟨[0x76], .ror .ix, 3⟩,
    ⟨[0x77], .asr .ix, 3⟩,
    ⟨[0x78], .lsl .ix, 3⟩,
    ⟨[0x79], .rol .ix, 3⟩,
    ⟨[0x7A], .dec .ix, 3⟩,
    ⟨[0x7C], .inc .ix, 3⟩,
    ⟨[0x7D], .tst .ix, 2⟩,
    ⟨[0x7F], .clr .ix, 2⟩,
    ⟨[0x71, 0x52], .cbeq .ixInc 0x52#8, 4⟩,
    ⟨[0x7B, 0x52], .dbnz .ix 0x52#8, 4⟩,
    ⟨[0x72], .daa, 2⟩,
    ⟨[0x75, 0x52], .cphx (.dir 0x52#8), 4⟩,
    ⟨[0x7E, 0x52], .mov (.ixIncDir 0x52#8), 4⟩] = true := by decide +kernel

theorem test_decode_column_8_9 : rowsDecode [
    ⟨[0x90, 0x52], .bge 0x52#8, 3⟩,
    ⟨[0x91, 0x52], .blt 0x52#8, 3⟩,
    ⟨[0x92, 0x52], .bgt 0x52#8, 3⟩,
    ⟨[0x93, 0x52], .ble 0x52#8, 3⟩,
    ⟨[0x80], .rti, 7⟩,
    ⟨[0x81], .rts, 4⟩,
    ⟨[0x83], .swi, 9⟩,
    ⟨[0x84], .tap, 2⟩,
    ⟨[0x85], .tpa, 1⟩,
    ⟨[0x86], .pula, 2⟩,
    ⟨[0x87], .psha, 2⟩,
    ⟨[0x88], .pulx, 2⟩,
    ⟨[0x89], .pshx, 2⟩,
    ⟨[0x8A], .pulh, 2⟩,
    ⟨[0x8B], .pshh, 2⟩,
    ⟨[0x8C], .clrh, 1⟩,
    ⟨[0x8E], .stop, 1⟩,
    ⟨[0x8F], .wait, 1⟩,
    ⟨[0x94], .txs, 2⟩,
    ⟨[0x95], .tsx, 2⟩,
    ⟨[0x97], .tax, 1⟩,
    ⟨[0x98], .clc, 1⟩,
    ⟨[0x99], .sec, 1⟩,
    ⟨[0x9A], .cli, 2⟩,
    ⟨[0x9B], .sei, 2⟩,
    ⟨[0x9C], .rsp, 1⟩,
    ⟨[0x9D], .nop, 1⟩,
    ⟨[0x9F], .txa, 1⟩] = true := by decide +kernel

theorem test_decode_column_A : rowsDecode [
    ⟨[0xA0, 0x52], .sub (.imm 0x52#8), 2⟩,
    ⟨[0xA1, 0x52], .cmp (.imm 0x52#8), 2⟩,
    ⟨[0xA2, 0x52], .sbc (.imm 0x52#8), 2⟩,
    ⟨[0xA3, 0x52], .cpx (.imm 0x52#8), 2⟩,
    ⟨[0xA4, 0x52], .and (.imm 0x52#8), 2⟩,
    ⟨[0xA5, 0x52], .bit (.imm 0x52#8), 2⟩,
    ⟨[0xA6, 0x52], .lda (.imm 0x52#8), 2⟩,
    ⟨[0xA8, 0x52], .eor (.imm 0x52#8), 2⟩,
    ⟨[0xA9, 0x52], .adc (.imm 0x52#8), 2⟩,
    ⟨[0xAA, 0x52], .ora (.imm 0x52#8), 2⟩,
    ⟨[0xAB, 0x52], .add (.imm 0x52#8), 2⟩,
    ⟨[0xAE, 0x52], .ldx (.imm 0x52#8), 2⟩,
    ⟨[0xA7, 0x52], .ais 0x52#8, 2⟩,
    ⟨[0xAD, 0x52], .bsr 0x52#8, 4⟩,
    ⟨[0xAF, 0x52], .aix 0x52#8, 2⟩] = true := by decide +kernel

theorem test_decode_column_B : rowsDecode [
    ⟨[0xB0, 0x52], .sub (.mem (.dir 0x52#8)), 3⟩,
    ⟨[0xB1, 0x52], .cmp (.mem (.dir 0x52#8)), 3⟩,
    ⟨[0xB2, 0x52], .sbc (.mem (.dir 0x52#8)), 3⟩,
    ⟨[0xB3, 0x52], .cpx (.mem (.dir 0x52#8)), 3⟩,
    ⟨[0xB4, 0x52], .and (.mem (.dir 0x52#8)), 3⟩,
    ⟨[0xB5, 0x52], .bit (.mem (.dir 0x52#8)), 3⟩,
    ⟨[0xB6, 0x52], .lda (.mem (.dir 0x52#8)), 3⟩,
    ⟨[0xB7, 0x52], .sta (.dir 0x52#8), 3⟩,
    ⟨[0xB8, 0x52], .eor (.mem (.dir 0x52#8)), 3⟩,
    ⟨[0xB9, 0x52], .adc (.mem (.dir 0x52#8)), 3⟩,
    ⟨[0xBA, 0x52], .ora (.mem (.dir 0x52#8)), 3⟩,
    ⟨[0xBB, 0x52], .add (.mem (.dir 0x52#8)), 3⟩,
    ⟨[0xBC, 0x52], .jmp (.dir 0x52#8), 2⟩,
    ⟨[0xBD, 0x52], .jsr (.dir 0x52#8), 4⟩,
    ⟨[0xBE, 0x52], .ldx (.mem (.dir 0x52#8)), 3⟩,
    ⟨[0xBF, 0x52], .stx (.dir 0x52#8), 3⟩] = true := by decide +kernel

theorem test_decode_column_C : rowsDecode [
    ⟨[0xC0, 0x52, 0xA7], .sub (.mem (.ext 0x52A7#16)), 4⟩,
    ⟨[0xC1, 0x52, 0xA7], .cmp (.mem (.ext 0x52A7#16)), 4⟩,
    ⟨[0xC2, 0x52, 0xA7], .sbc (.mem (.ext 0x52A7#16)), 4⟩,
    ⟨[0xC3, 0x52, 0xA7], .cpx (.mem (.ext 0x52A7#16)), 4⟩,
    ⟨[0xC4, 0x52, 0xA7], .and (.mem (.ext 0x52A7#16)), 4⟩,
    ⟨[0xC5, 0x52, 0xA7], .bit (.mem (.ext 0x52A7#16)), 4⟩,
    ⟨[0xC6, 0x52, 0xA7], .lda (.mem (.ext 0x52A7#16)), 4⟩,
    ⟨[0xC7, 0x52, 0xA7], .sta (.ext 0x52A7#16), 4⟩,
    ⟨[0xC8, 0x52, 0xA7], .eor (.mem (.ext 0x52A7#16)), 4⟩,
    ⟨[0xC9, 0x52, 0xA7], .adc (.mem (.ext 0x52A7#16)), 4⟩,
    ⟨[0xCA, 0x52, 0xA7], .ora (.mem (.ext 0x52A7#16)), 4⟩,
    ⟨[0xCB, 0x52, 0xA7], .add (.mem (.ext 0x52A7#16)), 4⟩,
    ⟨[0xCC, 0x52, 0xA7], .jmp (.ext 0x52A7#16), 3⟩,
    ⟨[0xCD, 0x52, 0xA7], .jsr (.ext 0x52A7#16), 5⟩,
    ⟨[0xCE, 0x52, 0xA7], .ldx (.mem (.ext 0x52A7#16)), 4⟩,
    ⟨[0xCF, 0x52, 0xA7], .stx (.ext 0x52A7#16), 4⟩] = true := by decide +kernel

theorem test_decode_column_D : rowsDecode [
    ⟨[0xD0, 0x52, 0xA7], .sub (.mem (.ix2 0x52A7#16)), 4⟩,
    ⟨[0xD1, 0x52, 0xA7], .cmp (.mem (.ix2 0x52A7#16)), 4⟩,
    ⟨[0xD2, 0x52, 0xA7], .sbc (.mem (.ix2 0x52A7#16)), 4⟩,
    ⟨[0xD3, 0x52, 0xA7], .cpx (.mem (.ix2 0x52A7#16)), 4⟩,
    ⟨[0xD4, 0x52, 0xA7], .and (.mem (.ix2 0x52A7#16)), 4⟩,
    ⟨[0xD5, 0x52, 0xA7], .bit (.mem (.ix2 0x52A7#16)), 4⟩,
    ⟨[0xD6, 0x52, 0xA7], .lda (.mem (.ix2 0x52A7#16)), 4⟩,
    ⟨[0xD7, 0x52, 0xA7], .sta (.ix2 0x52A7#16), 4⟩,
    ⟨[0xD8, 0x52, 0xA7], .eor (.mem (.ix2 0x52A7#16)), 4⟩,
    ⟨[0xD9, 0x52, 0xA7], .adc (.mem (.ix2 0x52A7#16)), 4⟩,
    ⟨[0xDA, 0x52, 0xA7], .ora (.mem (.ix2 0x52A7#16)), 4⟩,
    ⟨[0xDB, 0x52, 0xA7], .add (.mem (.ix2 0x52A7#16)), 4⟩,
    ⟨[0xDC, 0x52, 0xA7], .jmp (.ix2 0x52A7#16), 4⟩,
    ⟨[0xDD, 0x52, 0xA7], .jsr (.ix2 0x52A7#16), 6⟩,
    ⟨[0xDE, 0x52, 0xA7], .ldx (.mem (.ix2 0x52A7#16)), 4⟩,
    ⟨[0xDF, 0x52, 0xA7], .stx (.ix2 0x52A7#16), 4⟩] = true := by decide +kernel

theorem test_decode_column_E : rowsDecode [
    ⟨[0xE0, 0x52], .sub (.mem (.ix1 0x52#8)), 3⟩,
    ⟨[0xE1, 0x52], .cmp (.mem (.ix1 0x52#8)), 3⟩,
    ⟨[0xE2, 0x52], .sbc (.mem (.ix1 0x52#8)), 3⟩,
    ⟨[0xE3, 0x52], .cpx (.mem (.ix1 0x52#8)), 3⟩,
    ⟨[0xE4, 0x52], .and (.mem (.ix1 0x52#8)), 3⟩,
    ⟨[0xE5, 0x52], .bit (.mem (.ix1 0x52#8)), 3⟩,
    ⟨[0xE6, 0x52], .lda (.mem (.ix1 0x52#8)), 3⟩,
    ⟨[0xE7, 0x52], .sta (.ix1 0x52#8), 3⟩,
    ⟨[0xE8, 0x52], .eor (.mem (.ix1 0x52#8)), 3⟩,
    ⟨[0xE9, 0x52], .adc (.mem (.ix1 0x52#8)), 3⟩,
    ⟨[0xEA, 0x52], .ora (.mem (.ix1 0x52#8)), 3⟩,
    ⟨[0xEB, 0x52], .add (.mem (.ix1 0x52#8)), 3⟩,
    ⟨[0xEC, 0x52], .jmp (.ix1 0x52#8), 3⟩,
    ⟨[0xED, 0x52], .jsr (.ix1 0x52#8), 5⟩,
    ⟨[0xEE, 0x52], .ldx (.mem (.ix1 0x52#8)), 3⟩,
    ⟨[0xEF, 0x52], .stx (.ix1 0x52#8), 3⟩] = true := by decide +kernel

theorem test_decode_column_F : rowsDecode [
    ⟨[0xF0], .sub (.mem .ix), 2⟩,
    ⟨[0xF1], .cmp (.mem .ix), 2⟩,
    ⟨[0xF2], .sbc (.mem .ix), 2⟩,
    ⟨[0xF3], .cpx (.mem .ix), 2⟩,
    ⟨[0xF4], .and (.mem .ix), 2⟩,
    ⟨[0xF5], .bit (.mem .ix), 2⟩,
    ⟨[0xF6], .lda (.mem .ix), 2⟩,
    ⟨[0xF7], .sta .ix, 2⟩,
    ⟨[0xF8], .eor (.mem .ix), 2⟩,
    ⟨[0xF9], .adc (.mem .ix), 2⟩,
    ⟨[0xFA], .ora (.mem .ix), 2⟩,
    ⟨[0xFB], .add (.mem .ix), 2⟩,
    ⟨[0xFC], .jmp .ix, 2⟩,
    ⟨[0xFD], .jsr .ix, 4⟩,
    ⟨[0xFE], .ldx (.mem .ix), 2⟩,
    ⟨[0xFF], .stx .ix, 2⟩] = true := by decide +kernel

theorem test_decode_prebyte_6 : rowsDecode [
    ⟨[0x9E, 0x60, 0x52], .neg (.sp1 0x52#8), 5⟩,
    ⟨[0x9E, 0x63, 0x52], .com (.sp1 0x52#8), 5⟩,
    ⟨[0x9E, 0x64, 0x52], .lsr (.sp1 0x52#8), 5⟩,
    ⟨[0x9E, 0x66, 0x52], .ror (.sp1 0x52#8), 5⟩,
    ⟨[0x9E, 0x67, 0x52], .asr (.sp1 0x52#8), 5⟩,
    ⟨[0x9E, 0x68, 0x52], .lsl (.sp1 0x52#8), 5⟩,
    ⟨[0x9E, 0x69, 0x52], .rol (.sp1 0x52#8), 5⟩,
    ⟨[0x9E, 0x6A, 0x52], .dec (.sp1 0x52#8), 5⟩,
    ⟨[0x9E, 0x6C, 0x52], .inc (.sp1 0x52#8), 5⟩,
    ⟨[0x9E, 0x6D, 0x52], .tst (.sp1 0x52#8), 4⟩,
    ⟨[0x9E, 0x6F, 0x52], .clr (.sp1 0x52#8), 4⟩,
    ⟨[0x9E, 0x61, 0x52, 0xA7], .cbeq (.sp1 0x52#8) 0xA7#8, 6⟩,
    ⟨[0x9E, 0x6B, 0x52, 0xA7], .dbnz (.sp1 0x52#8) 0xA7#8, 6⟩] = true := by decide +kernel

theorem test_decode_prebyte_D : rowsDecode [
    ⟨[0x9E, 0xD0, 0x52, 0xA7], .sub (.mem (.sp2 0x52A7#16)), 5⟩,
    ⟨[0x9E, 0xD1, 0x52, 0xA7], .cmp (.mem (.sp2 0x52A7#16)), 5⟩,
    ⟨[0x9E, 0xD2, 0x52, 0xA7], .sbc (.mem (.sp2 0x52A7#16)), 5⟩,
    ⟨[0x9E, 0xD3, 0x52, 0xA7], .cpx (.mem (.sp2 0x52A7#16)), 5⟩,
    ⟨[0x9E, 0xD4, 0x52, 0xA7], .and (.mem (.sp2 0x52A7#16)), 5⟩,
    ⟨[0x9E, 0xD5, 0x52, 0xA7], .bit (.mem (.sp2 0x52A7#16)), 5⟩,
    ⟨[0x9E, 0xD6, 0x52, 0xA7], .lda (.mem (.sp2 0x52A7#16)), 5⟩,
    ⟨[0x9E, 0xD7, 0x52, 0xA7], .sta (.sp2 0x52A7#16), 5⟩,
    ⟨[0x9E, 0xD8, 0x52, 0xA7], .eor (.mem (.sp2 0x52A7#16)), 5⟩,
    ⟨[0x9E, 0xD9, 0x52, 0xA7], .adc (.mem (.sp2 0x52A7#16)), 5⟩,
    ⟨[0x9E, 0xDA, 0x52, 0xA7], .ora (.mem (.sp2 0x52A7#16)), 5⟩,
    ⟨[0x9E, 0xDB, 0x52, 0xA7], .add (.mem (.sp2 0x52A7#16)), 5⟩,
    ⟨[0x9E, 0xDE, 0x52, 0xA7], .ldx (.mem (.sp2 0x52A7#16)), 5⟩,
    ⟨[0x9E, 0xDF, 0x52, 0xA7], .stx (.sp2 0x52A7#16), 5⟩] = true := by decide +kernel

theorem test_decode_prebyte_E : rowsDecode [
    ⟨[0x9E, 0xE0, 0x52], .sub (.mem (.sp1 0x52#8)), 4⟩,
    ⟨[0x9E, 0xE1, 0x52], .cmp (.mem (.sp1 0x52#8)), 4⟩,
    ⟨[0x9E, 0xE2, 0x52], .sbc (.mem (.sp1 0x52#8)), 4⟩,
    ⟨[0x9E, 0xE3, 0x52], .cpx (.mem (.sp1 0x52#8)), 4⟩,
    ⟨[0x9E, 0xE4, 0x52], .and (.mem (.sp1 0x52#8)), 4⟩,
    ⟨[0x9E, 0xE5, 0x52], .bit (.mem (.sp1 0x52#8)), 4⟩,
    ⟨[0x9E, 0xE6, 0x52], .lda (.mem (.sp1 0x52#8)), 4⟩,
    ⟨[0x9E, 0xE7, 0x52], .sta (.sp1 0x52#8), 4⟩,
    ⟨[0x9E, 0xE8, 0x52], .eor (.mem (.sp1 0x52#8)), 4⟩,
    ⟨[0x9E, 0xE9, 0x52], .adc (.mem (.sp1 0x52#8)), 4⟩,
    ⟨[0x9E, 0xEA, 0x52], .ora (.mem (.sp1 0x52#8)), 4⟩,
    ⟨[0x9E, 0xEB, 0x52], .add (.mem (.sp1 0x52#8)), 4⟩,
    ⟨[0x9E, 0xEE, 0x52], .ldx (.mem (.sp1 0x52#8)), 4⟩,
    ⟨[0x9E, 0xEF, 0x52], .stx (.sp1 0x52#8), 4⟩] = true := by decide +kernel

/-- The words spec/opcode_table.json numbers: MOV $00,$F0 is $4E00F0, CLRA is $4F, $9E E7 05 is $9EE705. -/
theorem test_decodeTableWord :
    decodeTableWord 24 0x4E00F0 = some (.mov (.dirDir 0x00#8 0xF0#8)) ∧
    decodeTableWord 8 0x4F = some .clra ∧ decodeTableWord 8 0x8D = none ∧
    decodeTableWord 24 0x9EE705 = some (.sta (.sp1 0x05#8)) ∧
    decodeTableWord 16 0x20E2 = some (.bra 0xE2#8) := by decide

/-- The word placed for the next fetch is the instruction that runs. -/
theorem test_withFetchWord :
    (match step (State.reset.withFetchWord 16 0xA680) with
      | .next t => t.a == 0x80#8 && t.pc == 0x0002#16 && t.ccr.n
      | .fault _ | .refused _ => false) = true := by decide +kernel

/-! Vectors: one step from the start state of 95_test_vectors.md. -/

/-- The registers a vector gives. -/
structure Regs where
  a : Nat
  hx : Nat
  sp : Nat
  pc : Nat
  ccr : Nat

/-- One vector: the instruction bytes, the registers and bytes before, those after, the bus cycles. -/
structure Vector95 where
  bytes : List Nat
  before : Regs
  cellsBefore : List (Nat × Nat)
  after : Regs
  cellsAfter : List (Nat × Nat)
  cycles : Nat

/-- The start state of a vector: flat RAM holding `cells`, `bytes` at PC. -/
def start (bytes : List Nat) (r : Regs) (cells : List (Nat × Nat)) : State :=
  { State.reset with
    a := BitVec.ofNat 8 r.a, h := BitVec.ofNat 8 (r.hx / 256), x := BitVec.ofNat 8 r.hx
    sp := BitVec.ofNat 16 r.sp, pc := BitVec.ofNat 16 r.pc, ccr := CCR.ofByte (BitVec.ofNat 8 r.ccr)
    mem := Memory.load (cells.foldl (fun m c => m.write c.1 (BitVec.ofNat 8 c.2)) [])
      (BitVec.ofNat 16 r.pc) (bytes.map (BitVec.ofNat 8)) }

/-- The state has these registers. -/
def hasRegs (t : State) (r : Regs) : Bool :=
  t.a.toNat == r.a && t.hx.toNat == r.hx && t.sp.toNat == r.sp && t.pc.toNat == r.pc
    && t.ccr.toByte.toNat == r.ccr

/-- The step of the state gives a next state that satisfies `p`. -/
def stepGives (s : State) (p : State → Bool) : Bool :=
  match step s with
  | .next t => p t
  | .fault _ | .refused _ => false

/-- Every vector's step leaves its registers and bytes, and counts its cycles. -/
def vectorsHold (vs : List Vector95) : Bool :=
  vs.all fun v => stepGives (start v.bytes v.before v.cellsBefore) fun t =>
    hasRegs t v.after && v.cellsAfter.all (fun c => (t.mem.read c.1).toNat == c.2)
      && t.copCounter == v.cycles

/-- V41.1, V41.5, V41.17, V41.18, V41.40, V41.41, V41.29, V41.12, V41.13, V41.16, V41.20, V41.21, V41.22. -/
theorem test_data_movement_1 : vectorsHold [
    ⟨[0xA6, 0x00], ⟨0x55, 0x0000, 0x00FF, 0xE000, 0xE8⟩, [], ⟨0x00, 0x0000, 0x00FF, 0xE002, 0x6A⟩, [], 2⟩,
    ⟨[0xF6], ⟨0x00, 0x0400, 0x00FF, 0xE000, 0x68⟩, [(0x0400, 0xAA)],
      ⟨0xAA, 0x0400, 0x00FF, 0xE001, 0x6C⟩, [], 2⟩,
    ⟨[0xB7, 0x50], ⟨0x80, 0x0000, 0x00FF, 0xE000, 0xEB⟩, [],
      ⟨0x80, 0x0000, 0x00FF, 0xE002, 0x6D⟩, [(0x0050, 0x80)], 3⟩,
    ⟨[0x9E, 0xE7, 0x05], ⟨0xFF, 0x0000, 0x00D0, 0xE000, 0x68⟩, [],
      ⟨0xFF, 0x0000, 0x00D0, 0xE003, 0x6C⟩, [(0x00D5, 0xFF)], 4⟩,
    ⟨[0x6E, 0xAA, 0xF0], ⟨0x00, 0x0000, 0x00FF, 0xE000, 0xE8⟩, [],
      ⟨0x00, 0x0000, 0x00FF, 0xE003, 0x6C⟩, [(0x00F0, 0xAA)], 4⟩,
    ⟨[0x4E, 0x00, 0xF0], ⟨0x00, 0x0000, 0x00FF, 0xE000, 0x68⟩, [(0x0000, 0x55)],
      ⟨0x00, 0x0000, 0x00FF, 0xE003, 0x68⟩, [(0x00F0, 0x55)], 5⟩,
    ⟨[0x88], ⟨0x00, 0x0000, 0xFFFF, 0xE000, 0x68⟩, [(0x0000, 0x77)],
      ⟨0x00, 0x0077, 0x0000, 0xE001, 0x68⟩, [], 2⟩,
    ⟨[0xAE, 0xFF], ⟨0x00, 0x1200, 0x00FF, 0xE000, 0x68⟩, [], ⟨0x00, 0x12FF, 0x00FF, 0xE002, 0x6C⟩, [], 2⟩,
    ⟨[0x45, 0x12, 0x34], ⟨0x00, 0x0000, 0x00FF, 0xE000, 0xE8⟩, [], ⟨0x00, 0x1234, 0x00FF, 0xE003, 0x68⟩, [], 3⟩,
    ⟨[0x55, 0xFF], ⟨0x00, 0x0000, 0x00FF, 0xE000, 0x68⟩, [(0x00FF, 0xAB), (0x0100, 0xCD)],
      ⟨0x00, 0xABCD, 0x00FF, 0xE002, 0x6C⟩, [], 4⟩,
    ⟨[0xFF], ⟨0x00, 0x0400, 0x00FF, 0xE000, 0x68⟩, [],
      ⟨0x00, 0x0400, 0x00FF, 0xE001, 0x6A⟩, [(0x0400, 0x00)], 2⟩,
    ⟨[0x35, 0x50], ⟨0x00, 0x1234, 0x00FF, 0xE000, 0xE8⟩, [],
      ⟨0x00, 0x1234, 0x00FF, 0xE002, 0x68⟩, [(0x0050, 0x12), (0x0051, 0x34)], 4⟩,
    ⟨[0x35, 0xFF], ⟨0x00, 0x8001, 0x00FF, 0xE000, 0x68⟩, [],
      ⟨0x00, 0x8001, 0x00FF, 0xE002, 0x6C⟩, [(0x00FF, 0x80), (0x0100, 0x01)], 4⟩] = true := by decide +kernel

/-- V41.23, V41.25, V41.26, V41.27, V41.28, V41.30, V41.31, V41.32, V41.33, V41.34, V41.35, V41.36, V41.38. -/
theorem test_data_movement_2 : vectorsHold [
    ⟨[0x87], ⟨0x11, 0x0000, 0x00FF, 0xE000, 0x68⟩, [],
      ⟨0x11, 0x0000, 0x00FE, 0xE001, 0x68⟩, [(0x00FF, 0x11)], 2⟩,
    ⟨[0x8B], ⟨0x00, 0xABCD, 0x00FF, 0xE000, 0x68⟩, [],
      ⟨0x00, 0xABCD, 0x00FE, 0xE001, 0x68⟩, [(0x00FF, 0xAB)], 2⟩,
    ⟨[0x89], ⟨0x00, 0xABCD, 0x00FF, 0xE000, 0x68⟩, [],
      ⟨0x00, 0xABCD, 0x00FE, 0xE001, 0x68⟩, [(0x00FF, 0xCD)], 2⟩,
    ⟨[0x86], ⟨0x00, 0x0000, 0x00FE, 0xE000, 0xFF⟩, [(0x00FF, 0x5A)],
      ⟨0x5A, 0x0000, 0x00FF, 0xE001, 0xFF⟩, [], 2⟩,
    ⟨[0x8A], ⟨0x00, 0x0034, 0x00FE, 0xE000, 0x68⟩, [(0x00FF, 0x12)],
      ⟨0x00, 0x1234, 0x00FF, 0xE001, 0x68⟩, [], 2⟩,
    ⟨[0x84], ⟨0xFF, 0x0000, 0x00FF, 0xE000, 0x68⟩, [], ⟨0xFF, 0x0000, 0x00FF, 0xE001, 0xFF⟩, [], 2⟩,
    ⟨[0x84], ⟨0x00, 0x0000, 0x00FF, 0xE000, 0x68⟩, [], ⟨0x00, 0x0000, 0x00FF, 0xE001, 0x60⟩, [], 2⟩,
    ⟨[0x85], ⟨0x00, 0x0000, 0x00FF, 0xE000, 0x6A⟩, [], ⟨0x6A, 0x0000, 0x00FF, 0xE001, 0x6A⟩, [], 1⟩,
    ⟨[0x85], ⟨0x00, 0x0000, 0x00FF, 0xE000, 0xFF⟩, [], ⟨0xFF, 0x0000, 0x00FF, 0xE001, 0xFF⟩, [], 1⟩,
    ⟨[0x97], ⟨0x03, 0x12FF, 0x00FF, 0xE000, 0xFF⟩, [], ⟨0x03, 0x1203, 0x00FF, 0xE001, 0xFF⟩, [], 1⟩,
    ⟨[0x9F], ⟨0x00, 0x1280, 0x00FF, 0xE000, 0x68⟩, [], ⟨0x80, 0x1280, 0x00FF, 0xE001, 0x68⟩, [], 1⟩,
    ⟨[0x94], ⟨0x00, 0x0100, 0x0000, 0xE000, 0x68⟩, [], ⟨0x00, 0x0100, 0x00FF, 0xE001, 0x68⟩, [], 2⟩,
    ⟨[0x95], ⟨0x00, 0x0000, 0x00FF, 0xE000, 0x68⟩, [],
      ⟨0x00, 0x0100, 0x00FF, 0xE001, 0x68⟩, [], 2⟩] = true := by decide +kernel

/-- V42.24, V42.25, V42.47, V42.49, V42.50, V42.5, V42.1, V42.11, V42.9, V42.6, V42.8, V42.13, V42.14. -/
theorem test_arithmetic_1 : vectorsHold [
    ⟨[0x4C], ⟨0x7F, 0x0000, 0x00FF, 0xE000, 0x69⟩, [], ⟨0x80, 0x0000, 0x00FF, 0xE001, 0xED⟩, [], 1⟩,
    ⟨[0x4C], ⟨0xFF, 0x0000, 0x00FF, 0xE000, 0x68⟩, [], ⟨0x00, 0x0000, 0x00FF, 0xE001, 0x6A⟩, [], 1⟩,
    ⟨[0x4F], ⟨0x77, 0x0000, 0x00FF, 0xE000, 0xED⟩, [], ⟨0x00, 0x0000, 0x00FF, 0xE001, 0x6B⟩, [], 1⟩,
    ⟨[0x7F], ⟨0x00, 0x0400, 0x00FF, 0xE000, 0x68⟩, [(0x0400, 0x99)],
      ⟨0x00, 0x0400, 0x00FF, 0xE001, 0x6A⟩, [(0x0400, 0x00)], 2⟩,
    ⟨[0x6F, 0x0A], ⟨0x00, 0x0400, 0x00FF, 0xE000, 0x68⟩, [(0x040A, 0x99)],
      ⟨0x00, 0x0400, 0x00FF, 0xE002, 0x6A⟩, [(0x040A, 0x00)], 3⟩,
    ⟨[0xAB, 0x08], ⟨0x08, 0x0000, 0x00FF, 0xE000, 0xFF⟩, [], ⟨0x10, 0x0000, 0x00FF, 0xE002, 0x78⟩, [], 2⟩,
    ⟨[0xAB, 0x45], ⟨0x38, 0x0000, 0x00FF, 0xE000, 0x68⟩, [], ⟨0x7D, 0x0000, 0x00FF, 0xE002, 0x68⟩, [], 2⟩,
    ⟨[0xB0, 0x50], ⟨0x50, 0x0000, 0x00FF, 0xE000, 0x78⟩, [(0x0050, 0x50)],
      ⟨0x00, 0x0000, 0x00FF, 0xE002, 0x7A⟩, [], 3⟩,
    ⟨[0xA0, 0x01], ⟨0x00, 0x0000, 0x00FF, 0xE000, 0x68⟩, [], ⟨0xFF, 0x0000, 0x00FF, 0xE002, 0x6D⟩, [], 2⟩,
    ⟨[0xA9, 0x00], ⟨0xFF, 0x0000, 0x00FF, 0xE000, 0x69⟩, [], ⟨0x00, 0x0000, 0x00FF, 0xE002, 0x7B⟩, [], 2⟩,
    ⟨[0xB9, 0x50], ⟨0x01, 0x0000, 0x00FF, 0xE000, 0x68⟩, [(0x0050, 0x02)],
      ⟨0x03, 0x0000, 0x00FF, 0xE002, 0x68⟩, [], 3⟩,
    ⟨[0xA2, 0x00], ⟨0x00, 0x0000, 0x00FF, 0xE000, 0x69⟩, [], ⟨0xFF, 0x0000, 0x00FF, 0xE002, 0x6D⟩, [], 2⟩,
    ⟨[0xA2, 0x7F], ⟨0x80, 0x0000, 0x00FF, 0xE000, 0x69⟩, [],
      ⟨0x00, 0x0000, 0x00FF, 0xE002, 0xEA⟩, [], 2⟩] = true := by decide +kernel

/-- V42.15, V42.16, V42.21, V42.18, V42.26, V42.27, V42.28, V42.29, V42.30, V42.31, V42.32, V42.33, V42.34. -/
theorem test_arithmetic_2 : vectorsHold [
    ⟨[0x42], ⟨0xFF, 0x12FF, 0x00FF, 0xE000, 0xFF⟩, [], ⟨0x01, 0x12FE, 0x00FF, 0xE001, 0xEE⟩, [], 5⟩,
    ⟨[0x42], ⟨0x00, 0x0055, 0x00FF, 0xE000, 0x68⟩, [], ⟨0x00, 0x0000, 0x00FF, 0xE001, 0x68⟩, [], 5⟩,
    ⟨[0x52], ⟨0xFE, 0x0102, 0x00FF, 0xE000, 0xFF⟩, [], ⟨0xFF, 0x0002, 0x00FF, 0xE001, 0xFC⟩, [], 7⟩,
    ⟨[0x52], ⟨0x00, 0x0110, 0x00FF, 0xE000, 0x68⟩, [], ⟨0x10, 0x0010, 0x00FF, 0xE001, 0x68⟩, [], 7⟩,
    ⟨[0x5C], ⟨0x00, 0x12FF, 0x00FF, 0xE000, 0x68⟩, [], ⟨0x00, 0x1200, 0x00FF, 0xE001, 0x6A⟩, [], 1⟩,
    ⟨[0x3C, 0x50], ⟨0x00, 0x0000, 0x00FF, 0xE000, 0x68⟩, [(0x0050, 0x0F)],
      ⟨0x00, 0x0000, 0x00FF, 0xE002, 0x68⟩, [(0x0050, 0x10)], 4⟩,
    ⟨[0x4A], ⟨0x80, 0x0000, 0x00FF, 0xE000, 0x68⟩, [], ⟨0x7F, 0x0000, 0x00FF, 0xE001, 0xE8⟩, [], 1⟩,
    ⟨[0x4A], ⟨0x01, 0x0000, 0x00FF, 0xE000, 0x68⟩, [], ⟨0x00, 0x0000, 0x00FF, 0xE001, 0x6A⟩, [], 1⟩,
    ⟨[0x5A], ⟨0x00, 0x1200, 0x00FF, 0xE000, 0x68⟩, [], ⟨0x00, 0x12FF, 0x00FF, 0xE001, 0x6C⟩, [], 1⟩,
    ⟨[0x9E, 0x6A, 0x02], ⟨0x00, 0x0000, 0x00F0, 0xE000, 0x68⟩, [(0x00F2, 0x00)],
      ⟨0x00, 0x0000, 0x00F0, 0xE003, 0x6C⟩, [(0x00F2, 0xFF)], 5⟩,
    ⟨[0x43], ⟨0x55, 0x0000, 0x00FF, 0xE000, 0xE8⟩, [], ⟨0xAA, 0x0000, 0x00FF, 0xE001, 0x6D⟩, [], 1⟩,
    ⟨[0x43], ⟨0xFF, 0x0000, 0x00FF, 0xE000, 0x68⟩, [], ⟨0x00, 0x0000, 0x00FF, 0xE001, 0x6B⟩, [], 1⟩,
    ⟨[0x40], ⟨0x00, 0x0000, 0x00FF, 0xE000, 0x69⟩, [],
      ⟨0x00, 0x0000, 0x00FF, 0xE001, 0x6A⟩, [], 1⟩] = true := by decide +kernel

/-- V42.35, V42.37, V42.38, V42.39, V42.41, V42.42, V42.46, V42.48, V42.52, V42.53, V42.54, V42.55, V42.57. -/
theorem test_arithmetic_3 : vectorsHold [
    ⟨[0x40], ⟨0x80, 0x0000, 0x00FF, 0xE000, 0x68⟩, [], ⟨0x80, 0x0000, 0x00FF, 0xE001, 0xED⟩, [], 1⟩,
    ⟨[0x70], ⟨0x00, 0x0080, 0x00FF, 0xE000, 0x68⟩, [(0x0080, 0x7F)],
      ⟨0x00, 0x0080, 0x00FF, 0xE001, 0x6D⟩, [(0x0080, 0x81)], 3⟩,
    ⟨[0xA1, 0x20], ⟨0x20, 0x0000, 0x00FF, 0xE000, 0x68⟩, [], ⟨0x20, 0x0000, 0x00FF, 0xE002, 0x6A⟩, [], 2⟩,
    ⟨[0xA1, 0x21], ⟨0x20, 0x0000, 0x00FF, 0xE000, 0x68⟩, [], ⟨0x20, 0x0000, 0x00FF, 0xE002, 0x6D⟩, [], 2⟩,
    ⟨[0xA3, 0xFF], ⟨0x00, 0x0000, 0x00FF, 0xE000, 0x68⟩, [], ⟨0x00, 0x0000, 0x00FF, 0xE002, 0x69⟩, [], 2⟩,
    ⟨[0x65, 0x00, 0x00], ⟨0x00, 0x0000, 0x00FF, 0xE000, 0x68⟩, [], ⟨0x00, 0x0000, 0x00FF, 0xE003, 0x6A⟩, [], 3⟩,
    ⟨[0x75, 0x50], ⟨0x00, 0x1234, 0x00FF, 0xE000, 0x68⟩, [(0x0050, 0x12), (0x0051, 0x34)],
      ⟨0x00, 0x1234, 0x00FF, 0xE002, 0x6A⟩, [], 4⟩,
    ⟨[0x8C], ⟨0x00, 0x1234, 0x00FF, 0xE000, 0x68⟩, [], ⟨0x00, 0x0034, 0x00FF, 0xE001, 0x6A⟩, [], 1⟩,
    ⟨[0x4D], ⟨0x00, 0x0000, 0x00FF, 0xE000, 0xE9⟩, [], ⟨0x00, 0x0000, 0x00FF, 0xE001, 0x6B⟩, [], 1⟩,
    ⟨[0x3D, 0x50], ⟨0x00, 0x0000, 0x00FF, 0xE000, 0x68⟩, [(0x0050, 0x80)],
      ⟨0x00, 0x0000, 0x00FF, 0xE002, 0x6C⟩, [], 3⟩,
    ⟨[0xA7, 0xFA], ⟨0x00, 0x0000, 0x00FF, 0xE000, 0xFF⟩, [], ⟨0x00, 0x0000, 0x00F9, 0xE002, 0xFF⟩, [], 2⟩,
    ⟨[0xA7, 0x06], ⟨0x00, 0x0000, 0x00F9, 0xE000, 0x68⟩, [], ⟨0x00, 0x0000, 0x00FF, 0xE002, 0x68⟩, [], 2⟩,
    ⟨[0xAF, 0xFF], ⟨0x00, 0x0100, 0x00FF, 0xE000, 0x68⟩, [],
      ⟨0x00, 0x00FF, 0x00FF, 0xE002, 0x68⟩, [], 2⟩] = true := by decide +kernel

/-- V45.20, V45.24, V45.1, V45.2, V45.3, V45.4, V45.8, V45.9, V45.12, V45.13, V45.14, V45.15, V45.16. -/
theorem test_control_1 : vectorsHold [
    ⟨[0x31, 0x50, 0x05], ⟨0x20, 0x0000, 0x00FF, 0xE000, 0xFF⟩, [(0x0050, 0x20)],
      ⟨0x20, 0x0000, 0x00FF, 0xE008, 0xFF⟩, [], 5⟩,
    ⟨[0x71, 0x02], ⟨0x55, 0x0410, 0x00FF, 0xE000, 0x68⟩, [(0x0410, 0x55)],
      ⟨0x55, 0x0411, 0x00FF, 0xE004, 0x68⟩, [], 4⟩,
    ⟨[0x27, 0x05], ⟨0x00, 0x0000, 0x00FF, 0xE000, 0x6A⟩, [], ⟨0x00, 0x0000, 0x00FF, 0xE007, 0x6A⟩, [], 3⟩,
    ⟨[0x27, 0x05], ⟨0x00, 0x0000, 0x00FF, 0xE000, 0x68⟩, [], ⟨0x00, 0x0000, 0x00FF, 0xE002, 0x68⟩, [], 3⟩,
    ⟨[0x20, 0x7F], ⟨0x00, 0x0000, 0x00FF, 0xE000, 0x68⟩, [], ⟨0x00, 0x0000, 0x00FF, 0xE081, 0x68⟩, [], 3⟩,
    ⟨[0x20, 0x80], ⟨0x00, 0x0000, 0x00FF, 0xE000, 0x68⟩, [], ⟨0x00, 0x0000, 0x00FF, 0xDF82, 0x68⟩, [], 3⟩,
    ⟨[0x21, 0x7F], ⟨0x00, 0x0000, 0x00FF, 0xE000, 0xFF⟩, [], ⟨0x00, 0x0000, 0x00FF, 0xE002, 0xFF⟩, [], 3⟩,
    ⟨[0x2F, 0x02], ⟨0x00, 0x0000, 0x00FF, 0xE000, 0x68⟩, [], ⟨0x00, 0x0000, 0x00FF, 0xE004, 0x68⟩, [], 3⟩,
    ⟨[0x2C, 0x02], ⟨0x00, 0x0000, 0x00FF, 0xE000, 0x60⟩, [], ⟨0x00, 0x0000, 0x00FF, 0xE004, 0x60⟩, [], 3⟩,
    ⟨[0x2D, 0x02], ⟨0x00, 0x0000, 0x00FF, 0xE000, 0x68⟩, [], ⟨0x00, 0x0000, 0x00FF, 0xE004, 0x68⟩, [], 3⟩,
    ⟨[0x28, 0x02], ⟨0x00, 0x0000, 0x00FF, 0xE000, 0x78⟩, [], ⟨0x00, 0x0000, 0x00FF, 0xE002, 0x78⟩, [], 3⟩,
    ⟨[0x29, 0x02], ⟨0x00, 0x0000, 0x00FF, 0xE000, 0x78⟩, [], ⟨0x00, 0x0000, 0x00FF, 0xE004, 0x78⟩, [], 3⟩,
    ⟨[0x03, 0x00, 0xFD], ⟨0x00, 0x0000, 0x00FF, 0xE000, 0x68⟩, [(0x0000, 0x00)],
      ⟨0x00, 0x0000, 0x00FF, 0xE000, 0x68⟩, [], 5⟩] = true := by decide +kernel

/-- V45.17, V45.19, V45.18, V45.22, V45.23, V45.29, V45.34, V45.31, V45.32, V45.33, V45.37, V45.38, V45.42. -/
theorem test_control_2 : vectorsHold [
    ⟨[0x03, 0x00, 0xFD], ⟨0x00, 0x0000, 0x00FF, 0xE000, 0x68⟩, [(0x0000, 0x02)],
      ⟨0x00, 0x0000, 0x00FF, 0xE003, 0x69⟩, [], 5⟩,
    ⟨[0x0E, 0x50, 0x05], ⟨0x00, 0x0000, 0x00FF, 0xE000, 0x69⟩, [(0x0050, 0x7F)],
      ⟨0x00, 0x0000, 0x00FF, 0xE003, 0x68⟩, [], 5⟩,
    ⟨[0x0E, 0x50, 0x05], ⟨0x00, 0x0000, 0x00FF, 0xE000, 0x68⟩, [(0x0050, 0x80)],
      ⟨0x00, 0x0000, 0x00FF, 0xE008, 0x69⟩, [], 5⟩,
    ⟨[0x41, 0x20, 0x05], ⟨0x20, 0x0000, 0x00FF, 0xE000, 0x68⟩, [], ⟨0x20, 0x0000, 0x00FF, 0xE008, 0x68⟩, [], 4⟩,
    ⟨[0x51, 0x20, 0x05], ⟨0x00, 0x0021, 0x00FF, 0xE000, 0x68⟩, [], ⟨0x00, 0x0021, 0x00FF, 0xE003, 0x68⟩, [], 4⟩,
    ⟨[0x3B, 0x50, 0xFD], ⟨0x00, 0x0000, 0x00FF, 0xE000, 0xFF⟩, [(0x0050, 0x00)],
      ⟨0x00, 0x0000, 0x00FF, 0xE000, 0xFF⟩, [(0x0050, 0xFF)], 5⟩,
    ⟨[0x7B, 0xFE], ⟨0x00, 0x0080, 0x00FF, 0xE000, 0x68⟩, [(0x0080, 0x02)],
      ⟨0x00, 0x0080, 0x00FF, 0xE000, 0x68⟩, [(0x0080, 0x01)], 4⟩,
    ⟨[0x4B, 0xFB], ⟨0x3F, 0x0000, 0x00FF, 0xE000, 0x68⟩, [], ⟨0x3E, 0x0000, 0x00FF, 0xDFFD, 0x68⟩, [], 3⟩,
    ⟨[0x5B, 0xFE], ⟨0x00, 0x1201, 0x00FF, 0xE000, 0x68⟩, [], ⟨0x00, 0x1200, 0x00FF, 0xE002, 0x68⟩, [], 3⟩,
    ⟨[0x5B, 0xFE], ⟨0x00, 0x1200, 0x00FF, 0xE000, 0x68⟩, [], ⟨0x00, 0x12FF, 0x00FF, 0xE000, 0x68⟩, [], 3⟩,
    ⟨[0xBC, 0x50], ⟨0x00, 0x0000, 0x00FF, 0xE000, 0x68⟩, [], ⟨0x00, 0x0000, 0x00FF, 0x0050, 0x68⟩, [], 2⟩,
    ⟨[0xCC, 0x90, 0x00], ⟨0x00, 0x0000, 0x00FF, 0xE000, 0x68⟩, [], ⟨0x00, 0x0000, 0x00FF, 0x9000, 0x68⟩, [], 3⟩,
    ⟨[0xCD, 0x90, 0x00], ⟨0x00, 0x0000, 0x00FF, 0xE000, 0x68⟩, [],
      ⟨0x00, 0x0000, 0x00FD, 0x9000, 0x68⟩, [(0x00FF, 0x03), (0x00FE, 0xE0)], 5⟩] = true := by decide +kernel

/-- V45.43, V45.45, V45.46, V45.47, V45.48, V45.49, V45.50, V45.51, V45.54, V45.55, V45.58, V45.59, V45.62. -/
theorem test_control_3 : vectorsHold [
    ⟨[0xBD, 0x50], ⟨0x00, 0x0000, 0x00FF, 0xE0FF, 0x68⟩, [],
      ⟨0x00, 0x0000, 0x00FD, 0x0050, 0x68⟩, [(0x00FF, 0x01), (0x00FE, 0xE1)], 4⟩,
    ⟨[0xAD, 0x10], ⟨0x00, 0x0000, 0x00FF, 0xE000, 0x68⟩, [],
      ⟨0x00, 0x0000, 0x00FD, 0xE012, 0x68⟩, [(0x00FF, 0x02), (0x00FE, 0xE0)], 4⟩,
    ⟨[0x81], ⟨0x00, 0x0000, 0x00FD, 0xE000, 0x68⟩, [(0x00FE, 0xE0), (0x00FF, 0x03)],
      ⟨0x00, 0x0000, 0x00FF, 0xE003, 0x68⟩, [], 4⟩,
    ⟨[0x83], ⟨0x11, 0x3322, 0x00FF, 0xE000, 0x62⟩, [(0xFFFC, 0x90), (0xFFFD, 0x00)],
      ⟨0x11, 0x3322, 0x00FA, 0x9000, 0x6A⟩,
      [(0x00FF, 0x01), (0x00FE, 0xE0), (0x00FD, 0x22), (0x00FC, 0x11), (0x00FB, 0x62)], 9⟩,
    ⟨[0x80], ⟨0x00, 0x3300, 0x00FA, 0x9000, 0x68⟩,
      [(0x00FB, 0x62), (0x00FC, 0x11), (0x00FD, 0x22), (0x00FE, 0xE0), (0x00FF, 0x01)],
      ⟨0x11, 0x3322, 0x00FF, 0xE001, 0x62⟩, [], 7⟩,
    ⟨[0x80], ⟨0x00, 0x0000, 0x00FA, 0x9000, 0x68⟩,
      [(0x00FB, 0x00), (0x00FC, 0x00), (0x00FD, 0x00), (0x00FE, 0x12), (0x00FF, 0x34)],
      ⟨0x00, 0x0000, 0x00FF, 0x1234, 0x60⟩, [], 7⟩,
    ⟨[0x24, 0x10], ⟨0x00, 0x0000, 0x00FF, 0xE000, 0x68⟩, [], ⟨0x00, 0x0000, 0x00FF, 0xE012, 0x68⟩, [], 3⟩,
    ⟨[0x24, 0x10], ⟨0x00, 0x0000, 0x00FF, 0xE000, 0x69⟩, [], ⟨0x00, 0x0000, 0x00FF, 0xE002, 0x69⟩, [], 3⟩,
    ⟨[0x25, 0x10], ⟨0x00, 0x0000, 0x00FF, 0xE000, 0x69⟩, [], ⟨0x00, 0x0000, 0x00FF, 0xE012, 0x69⟩, [], 3⟩,
    ⟨[0x25, 0x10], ⟨0x00, 0x0000, 0x00FF, 0xE000, 0x68⟩, [], ⟨0x00, 0x0000, 0x00FF, 0xE002, 0x68⟩, [], 3⟩,
    ⟨[0x26, 0x10], ⟨0x00, 0x0000, 0x00FF, 0xE000, 0x68⟩, [], ⟨0x00, 0x0000, 0x00FF, 0xE012, 0x68⟩, [], 3⟩,
    ⟨[0x26, 0x10], ⟨0x00, 0x0000, 0x00FF, 0xE000, 0x6A⟩, [], ⟨0x00, 0x0000, 0x00FF, 0xE002, 0x6A⟩, [], 3⟩,
    ⟨[0x22, 0x10], ⟨0x00, 0x0000, 0x00FF, 0xE000, 0x68⟩, [],
      ⟨0x00, 0x0000, 0x00FF, 0xE012, 0x68⟩, [], 3⟩] = true := by decide +kernel

/-- V45.63, V45.64, V45.65, V45.66, V45.67, V45.68, V45.69, V45.70, V45.71, V45.72, V45.73, V45.74, V45.75. -/
theorem test_control_4 : vectorsHold [
    ⟨[0x22, 0x10], ⟨0x00, 0x0000, 0x00FF, 0xE000, 0x6A⟩, [], ⟨0x00, 0x0000, 0x00FF, 0xE002, 0x6A⟩, [], 3⟩,
    ⟨[0x23, 0x10], ⟨0x00, 0x0000, 0x00FF, 0xE000, 0x69⟩, [], ⟨0x00, 0x0000, 0x00FF, 0xE012, 0x69⟩, [], 3⟩,
    ⟨[0x23, 0x10], ⟨0x00, 0x0000, 0x00FF, 0xE000, 0x68⟩, [], ⟨0x00, 0x0000, 0x00FF, 0xE002, 0x68⟩, [], 3⟩,
    ⟨[0x2A, 0x10], ⟨0x00, 0x0000, 0x00FF, 0xE000, 0x68⟩, [], ⟨0x00, 0x0000, 0x00FF, 0xE012, 0x68⟩, [], 3⟩,
    ⟨[0x2A, 0x10], ⟨0x00, 0x0000, 0x00FF, 0xE000, 0x6C⟩, [], ⟨0x00, 0x0000, 0x00FF, 0xE002, 0x6C⟩, [], 3⟩,
    ⟨[0x2B, 0x10], ⟨0x00, 0x0000, 0x00FF, 0xE000, 0x6C⟩, [], ⟨0x00, 0x0000, 0x00FF, 0xE012, 0x6C⟩, [], 3⟩,
    ⟨[0x2B, 0x10], ⟨0x00, 0x0000, 0x00FF, 0xE000, 0x68⟩, [], ⟨0x00, 0x0000, 0x00FF, 0xE002, 0x68⟩, [], 3⟩,
    ⟨[0x90, 0x10], ⟨0x00, 0x0000, 0x00FF, 0xE000, 0xEC⟩, [], ⟨0x00, 0x0000, 0x00FF, 0xE012, 0xEC⟩, [], 3⟩,
    ⟨[0x90, 0x10], ⟨0x00, 0x0000, 0x00FF, 0xE000, 0x6C⟩, [], ⟨0x00, 0x0000, 0x00FF, 0xE002, 0x6C⟩, [], 3⟩,
    ⟨[0x91, 0x10], ⟨0x00, 0x0000, 0x00FF, 0xE000, 0xE8⟩, [], ⟨0x00, 0x0000, 0x00FF, 0xE012, 0xE8⟩, [], 3⟩,
    ⟨[0x91, 0x10], ⟨0x00, 0x0000, 0x00FF, 0xE000, 0xEC⟩, [], ⟨0x00, 0x0000, 0x00FF, 0xE002, 0xEC⟩, [], 3⟩,
    ⟨[0x92, 0x10], ⟨0x00, 0x0000, 0x00FF, 0xE000, 0x68⟩, [], ⟨0x00, 0x0000, 0x00FF, 0xE012, 0x68⟩, [], 3⟩,
    ⟨[0x92, 0x10], ⟨0x00, 0x0000, 0x00FF, 0xE000, 0x6A⟩, [],
      ⟨0x00, 0x0000, 0x00FF, 0xE002, 0x6A⟩, [], 3⟩] = true := by decide +kernel

/-- V45.76, V45.77. -/
theorem test_control_5 : vectorsHold [
    ⟨[0x93, 0x10], ⟨0x00, 0x0000, 0x00FF, 0xE000, 0x6A⟩, [], ⟨0x00, 0x0000, 0x00FF, 0xE012, 0x6A⟩, [], 3⟩,
    ⟨[0x93, 0x10], ⟨0x00, 0x0000, 0x00FF, 0xE000, 0x68⟩, [],
      ⟨0x00, 0x0000, 0x00FF, 0xE002, 0x68⟩, [], 3⟩] = true := by decide +kernel

/-- V43.1, V43.2, V43.3, V43.4, V43.5, V43.6, V43.7, V43.8, V43.11, V43.9, V43.12, V43.15, V43.16. -/
theorem test_logic_1 : vectorsHold [
    ⟨[0xA4, 0x0F], ⟨0xF0, 0x0000, 0x00FF, 0xE000, 0xE8⟩, [], ⟨0x00, 0x0000, 0x00FF, 0xE002, 0x6A⟩, [], 2⟩,
    ⟨[0xA4, 0x80], ⟨0xFF, 0x0000, 0x00FF, 0xE000, 0x68⟩, [], ⟨0x80, 0x0000, 0x00FF, 0xE002, 0x6C⟩, [], 2⟩,
    ⟨[0xAA, 0x80], ⟨0x01, 0x0000, 0x00FF, 0xE000, 0x68⟩, [], ⟨0x81, 0x0000, 0x00FF, 0xE002, 0x6C⟩, [], 2⟩,
    ⟨[0xBA, 0x50], ⟨0x00, 0x0000, 0x00FF, 0xE000, 0x68⟩, [(0x0050, 0x00)],
      ⟨0x00, 0x0000, 0x00FF, 0xE002, 0x6A⟩, [], 3⟩,
    ⟨[0xA8, 0xFF], ⟨0xFF, 0x0000, 0x00FF, 0xE000, 0x68⟩, [], ⟨0x00, 0x0000, 0x00FF, 0xE002, 0x6A⟩, [], 2⟩,
    ⟨[0xA8, 0xFF], ⟨0x0F, 0x0000, 0x00FF, 0xE000, 0x68⟩, [], ⟨0xF0, 0x0000, 0x00FF, 0xE002, 0x6C⟩, [], 2⟩,
    ⟨[0xA5, 0x10], ⟨0xEF, 0x0000, 0x00FF, 0xE000, 0xE8⟩, [], ⟨0xEF, 0x0000, 0x00FF, 0xE002, 0x6A⟩, [], 2⟩,
    ⟨[0xA5, 0x80], ⟨0x80, 0x0000, 0x00FF, 0xE000, 0x68⟩, [], ⟨0x80, 0x0000, 0x00FF, 0xE002, 0x6C⟩, [], 2⟩,
    ⟨[0x1F, 0x50], ⟨0x00, 0x0000, 0x00FF, 0xE000, 0xFF⟩, [(0x0050, 0x7F)],
      ⟨0x00, 0x0000, 0x00FF, 0xE002, 0xFF⟩, [(0x0050, 0x7F)], 4⟩,
    ⟨[0x19, 0x00], ⟨0x00, 0x0000, 0x00FF, 0xE000, 0x68⟩, [(0x0000, 0x18)],
      ⟨0x00, 0x0000, 0x00FF, 0xE002, 0x68⟩, [(0x0000, 0x08)], 4⟩,
    ⟨[0x16, 0x00], ⟨0x00, 0x0000, 0x00FF, 0xE000, 0x68⟩, [(0x0000, 0x00)],
      ⟨0x00, 0x0000, 0x00FF, 0xE002, 0x68⟩, [(0x0000, 0x08)], 4⟩,
    ⟨[0x98], ⟨0x00, 0x0000, 0x00FF, 0xE000, 0xFF⟩, [], ⟨0x00, 0x0000, 0x00FF, 0xE001, 0xFE⟩, [], 1⟩,
    ⟨[0x99], ⟨0x00, 0x0000, 0x00FF, 0xE000, 0x60⟩, [],
      ⟨0x00, 0x0000, 0x00FF, 0xE001, 0x61⟩, [], 1⟩] = true := by decide +kernel

/-- V43.17, V43.18. -/
theorem test_logic_2 : vectorsHold [
    ⟨[0x9A], ⟨0x00, 0x0000, 0x00FF, 0xE000, 0xFF⟩, [], ⟨0x00, 0x0000, 0x00FF, 0xE001, 0xF7⟩, [], 2⟩,
    ⟨[0x9B], ⟨0x00, 0x0000, 0x00FF, 0xE000, 0x60⟩, [],
      ⟨0x00, 0x0000, 0x00FF, 0xE001, 0x68⟩, [], 2⟩] = true := by decide +kernel

/-- V44.1, V44.2, V44.4, V44.5, V44.6, V44.7, V44.9, V44.8, V44.10, V44.11, V44.12, V44.13, V44.14. -/
theorem test_shifts_1 : vectorsHold [
    ⟨[0x48], ⟨0x80, 0x0000, 0x00FF, 0xE000, 0x68⟩, [], ⟨0x00, 0x0000, 0x00FF, 0xE001, 0xEB⟩, [], 1⟩,
    ⟨[0x48], ⟨0x40, 0x0000, 0x00FF, 0xE000, 0x68⟩, [], ⟨0x80, 0x0000, 0x00FF, 0xE001, 0xEC⟩, [], 1⟩,
    ⟨[0x38, 0x50], ⟨0x00, 0x0000, 0x00FF, 0xE000, 0x68⟩, [(0x0050, 0x01)],
      ⟨0x00, 0x0000, 0x00FF, 0xE002, 0x68⟩, [(0x0050, 0x02)], 4⟩,
    ⟨[0x47], ⟨0x81, 0x0000, 0x00FF, 0xE000, 0x68⟩, [], ⟨0xC0, 0x0000, 0x00FF, 0xE001, 0x6D⟩, [], 1⟩,
    ⟨[0x47], ⟨0x01, 0x0000, 0x00FF, 0xE000, 0x68⟩, [], ⟨0x00, 0x0000, 0x00FF, 0xE001, 0xEB⟩, [], 1⟩,
    ⟨[0x57], ⟨0x00, 0x12FE, 0x00FF, 0xE000, 0x68⟩, [], ⟨0x00, 0x12FF, 0x00FF, 0xE001, 0xEC⟩, [], 1⟩,
    ⟨[0x44], ⟨0x80, 0x0000, 0x00FF, 0xE000, 0xED⟩, [], ⟨0x40, 0x0000, 0x00FF, 0xE001, 0x68⟩, [], 1⟩,
    ⟨[0x44], ⟨0x01, 0x0000, 0x00FF, 0xE000, 0x68⟩, [], ⟨0x00, 0x0000, 0x00FF, 0xE001, 0xEB⟩, [], 1⟩,
    ⟨[0x74], ⟨0x00, 0x0080, 0x00FF, 0xE000, 0x68⟩, [(0x0080, 0xFF)],
      ⟨0x00, 0x0080, 0x00FF, 0xE001, 0xE9⟩, [(0x0080, 0x7F)], 3⟩,
    ⟨[0x49], ⟨0x80, 0x0000, 0x00FF, 0xE000, 0x69⟩, [], ⟨0x01, 0x0000, 0x00FF, 0xE001, 0xE9⟩, [], 1⟩,
    ⟨[0x49], ⟨0x40, 0x0000, 0x00FF, 0xE000, 0x68⟩, [], ⟨0x80, 0x0000, 0x00FF, 0xE001, 0xEC⟩, [], 1⟩,
    ⟨[0x9E, 0x69, 0x01], ⟨0x00, 0x0000, 0x00F0, 0xE000, 0x69⟩, [(0x00F1, 0x00)],
      ⟨0x00, 0x0000, 0x00F0, 0xE003, 0x68⟩, [(0x00F1, 0x01)], 5⟩,
    ⟨[0x46], ⟨0x01, 0x0000, 0x00FF, 0xE000, 0x69⟩, [],
      ⟨0x80, 0x0000, 0x00FF, 0xE001, 0x6D⟩, [], 1⟩] = true := by decide +kernel

/-- V44.15, V44.16. -/
theorem test_shifts_2 : vectorsHold [
    ⟨[0x46], ⟨0x01, 0x0000, 0x00FF, 0xE000, 0x68⟩, [], ⟨0x00, 0x0000, 0x00FF, 0xE001, 0xEB⟩, [], 1⟩,
    ⟨[0x56], ⟨0x00, 0x1200, 0x00FF, 0xE000, 0x69⟩, [],
      ⟨0x00, 0x1280, 0x00FF, 0xE001, 0xEC⟩, [], 1⟩] = true := by decide +kernel

/-- V46.9, V46.10, V46.12. -/
theorem test_special : vectorsHold [
    ⟨[0x62], ⟨0x3C, 0x0000, 0x00FF, 0xE000, 0xFF⟩, [], ⟨0xC3, 0x0000, 0x00FF, 0xE001, 0xFF⟩, [], 3⟩,
    ⟨[0x9C], ⟨0x00, 0x0000, 0x01A0, 0xE000, 0x68⟩, [], ⟨0x00, 0x0000, 0x01FF, 0xE001, 0x68⟩, [], 1⟩,
    ⟨[0x9D], ⟨0x00, 0x0000, 0x00FF, 0xE000, 0xFF⟩, [],
      ⟨0x00, 0x0000, 0x00FF, 0xE001, 0xFF⟩, [], 1⟩] = true := by decide +kernel

/-- Forms the chosen vectors leave out, from rules R182, R181, R186, R187 and R221 to R225. -/
theorem test_index_register_forms : vectorsHold [
    ⟨[0x50], ⟨0x11, 0x1280, 0xFF, 0xE000, 0x68⟩, [], ⟨0x11, 0x1280, 0xFF, 0xE001, 0xED⟩, [], 1⟩,
    ⟨[0x53], ⟨0x11, 0x120F, 0xFF, 0xE000, 0xE8⟩, [], ⟨0x11, 0x12F0, 0xFF, 0xE001, 0x6D⟩, [], 1⟩,
    ⟨[0x54], ⟨0x11, 0x1203, 0xFF, 0xE000, 0x68⟩, [], ⟨0x11, 0x1201, 0xFF, 0xE001, 0xE9⟩, [], 1⟩,
    ⟨[0x58], ⟨0x11, 0x1240, 0xFF, 0xE000, 0x69⟩, [], ⟨0x11, 0x1280, 0xFF, 0xE001, 0xEC⟩, [], 1⟩,
    ⟨[0x59], ⟨0x11, 0x1280, 0xFF, 0xE000, 0x69⟩, [], ⟨0x11, 0x1201, 0xFF, 0xE001, 0xE9⟩, [], 1⟩,
    ⟨[0x5D], ⟨0x00, 0x1280, 0xFF, 0xE000, 0xE9⟩, [], ⟨0x00, 0x1280, 0xFF, 0xE001, 0x6D⟩, [], 1⟩,
    ⟨[0x5F], ⟨0x11, 0x1280, 0xFF, 0xE000, 0xED⟩, [], ⟨0x11, 0x1200, 0xFF, 0xE001, 0x6B⟩, [], 1⟩,
    ⟨[0x33, 0x50], ⟨0, 0, 0xFF, 0xE000, 0xE8⟩, [(0x50, 0x0F)], ⟨0, 0, 0xFF, 0xE002, 0x6D⟩,
      [(0x50, 0xF0)], 4⟩,
    ⟨[0x67, 0x05], ⟨0, 0x0100, 0xFF, 0xE000, 0x68⟩, [(0x0105, 0x81)], ⟨0, 0x0100, 0xFF, 0xE002, 0x6D⟩,
      [(0x0105, 0xC0)], 4⟩,
    ⟨[0x9E, 0x66, 0x05], ⟨0, 0, 0xD0, 0xE000, 0x69⟩, [(0xD5, 0x02)], ⟨0, 0, 0xD0, 0xE003, 0xEC⟩,
      [(0xD5, 0x81)], 5⟩] = true := by decide +kernel

/-- V46.1 to V46.3 and V46.5, but for V, which is a free value. -/
theorem test_daa :
    ([(0x7D, 0x68, 0x83, false), (0x9A, 0x6C, 0x00, true), (0x41, 0x78, 0x47, false),
      (0x32, 0x79, 0x98, true)].all fun (a, ccr, r, c) =>
      stepGives (start [0x72] ⟨a, 0, 0xFF, 0xE000, ccr⟩ []) fun t =>
        t.a.toNat == r && t.ccr.c == c && t.ccr.n == decide (128 ≤ r) && t.ccr.z == decide (r = 0)
          && t.pc == 0xE001#16) = true := by decide +kernel

/-- V46.8: outside the table Hf and I stay, and the machine goes on. -/
theorem test_daa_outside : stepGives (start [0x72] ⟨0x1F, 0, 0xFF, 0xE000, 0x78⟩ []) (fun t =>
    t.ccr.hf && t.ccr.i && t.pc == 0xE001#16) = true := by decide +kernel

/-- V42.22 and V42.23: C is set, X, V, Hf, I and N stay, and the machine goes on. -/
theorem test_div_overflow :
    ([(0x00, 0x0202), (0x05, 0x0000)].all fun (a, hx) =>
      stepGives (start [0x52] ⟨a, hx, 0xFF, 0xE000, 0x68⟩ []) fun t =>
        t.ccr.c && !t.ccr.v && !t.ccr.hf && t.ccr.i && !t.ccr.n && t.x.toNat == hx % 256
          && t.pc == 0xE001#16) = true := by decide +kernel

/-- V46.13 and V46.14. -/
theorem test_stop_wait :
    stepGives (start [0x8E] ⟨0, 0, 0xFF, 0xE000, 0x68⟩ []) (fun t =>
      hasRegs t ⟨0, 0, 0xFF, 0xE001, 0x60⟩ && t.power == .stopped) = true ∧
    stepGives (start [0x8F] ⟨0, 0, 0xFF, 0xE000, 0xFF⟩ []) (fun t =>
      hasRegs t ⟨0, 0, 0xFF, 0xE001, 0xF7⟩ && t.power == .waiting) = true := by decide +kernel

/-! Resets and interrupts. -/

/-- A NOP at $E000 of flat RAM. -/
def nopState : State := start [0x9D] ⟨0x12, 0x3456, 0x00FF, 0xE000, 0x68⟩ []

/-- A state with all requests enabled and the vectors of Part C: IRQ1 to $9100, TIM overflow to $9200, SWI to
$9000, reset to $EC00. -/
def exceptional (bytes : List Nat) (r : Regs) : State :=
  { start bytes r [(0xFFF2, 0x92), (0xFFFA, 0x91), (0xFFFC, 0x90), (0xFFFE, 0xEC)] with
    enable := ⟨true, true, true, true, true, true, true, true, true, true, true, true, true, [2, 7]⟩ }

/-- V30.1 to V30.10: the reset sequence. -/
theorem test_illegal_opcodes :
    ([[0x32], [0x3E], [0x82], [0x8D], [0x96], [0xAC], [0x9E, 0x00], [0x9E, 0x9E], [0x9E, 0xEC],
      [0x9E, 0x4B]].all fun bytes =>
      stepGives (exceptional bytes ⟨0x11, 0x2233, 0x55, 0xE000, 0x60⟩) fun t =>
        t.pc == 0xEC00#16 && t.sp == 0x00FF#16 && t.ccr.i && t.resetCause == .illegalOpcode
          && t.mem.read 0xE000 == BitVec.ofNat 8 (bytes.headD 0)) = true := by decide +kernel

/-- The state of V60.1. -/
def irqPending : State :=
  { exceptional [0x4C] ⟨0x11, 0x3322, 0xFF, 0xE010, 0x60⟩ with irqLatch := true }

/-- The requests with TIM overflow alone. -/
def timRequest : SourceFlags := { SourceFlags.none with timOverflow := true }

/-- V60.1: the frame, I, PC from the vector, the latch. -/
theorem test_irq_entry : stepGives irqPending (fun t =>
    hasRegs t ⟨0x11, 0x3322, 0xFA, 0x9100, 0x68⟩ && !t.irqLatch &&
    [(0xFF, 0x10), (0xFE, 0xE0), (0xFD, 0x22), (0xFC, 0x11), (0xFB, 0x60)].all fun (a, v) =>
      (t.mem.read a).toNat == v) = true := by decide +kernel

/-- V60.2: with I = 1 the instruction runs and the request stays. -/
theorem test_irq_masked : stepGives { irqPending with ccr := { irqPending.ccr with i := true } } (fun t =>
    hasRegs t ⟨0x12, 0x3322, 0xFF, 0xE011, 0x68⟩ && t.irqLatch) = true := by decide +kernel

/-- V60.3: IRQ1 goes before TIM overflow, which alone is taken through $FFF2. -/
theorem test_irq_priority :
    stepGives { irqPending with inputs := { Inputs.quiet with requests := timRequest } } (fun t =>
      t.pc == 0x9100#16 && t.inputs.requests.timOverflow) = true ∧
    stepGives { irqPending with
      irqLatch := false, inputs := { Inputs.quiet with requests := timRequest } } (fun t =>
      t.pc == 0x9200#16 && t.sp == 0x00FA#16) = true := by decide +kernel

/-- R9, R310: a part with an SPI and a source of number 7, its vectors and priorities its own: SPI goes first for its
priority, then source 7, and of two sources of one priority the first in the part's list (log 34). -/
theorem test_other_sources :
    let part (priority : Nat) : State := { irqPending with
      irqLatch := false
      inputs := { Inputs.quiet with requests := { SourceFlags.none with spi := true, others := [7] } }
      plat := { Platform.flat with
        sources := [⟨.other 7, 0xFFF2#16, 4⟩, ⟨.spi, 0xFFFA#16, priority⟩, ⟨.other 2, 0xFFFC#16, 1⟩] } }
    stepGives (part 3) (fun t => t.pc == 0x9100#16) = true ∧
    stepGives (part 4) (fun t => t.pc == 0x9200#16) = true ∧
    stepGives (part 5) (fun t => t.pc == 0x9200#16) = true ∧
    stepGives { part 3 with plat := Platform.flat } (fun t => t.pc == 0xE011#16) = true := by decide +kernel

/-- V60.6: WAIT ends with the interrupt; the frame holds the address after WAIT. -/
theorem test_wait_wakes :
    stepGives { exceptional [] ⟨0x01, 0x0002, 0xFF, 0xE001, 0x62⟩ with
      power := .waiting, irqLatch := true } (fun t =>
      hasRegs t ⟨0x01, 0x0002, 0xFA, 0x9100, 0x6A⟩ && t.power == .running &&
      (t.mem.read 0xFF).toNat == 0x01 && (t.mem.read 0xFE).toNat == 0xE0 &&
      (t.mem.read 0xFB).toNat == 0x62) = true := by decide +kernel

/-- V60.7 and R342: STOP goes on without a request, and IRQ1 ends it but TIM overflow does not. -/
theorem test_stop_wakes :
    let stopped := { irqPending with power := .stopped }
    stepGives { stopped with irqLatch := false } (fun t =>
      t.power == .stopped && t.pc == 0xE010#16) = true ∧
    stepGives stopped (fun t => t.power == .running && t.pc == 0x9100#16) = true ∧
    stepGives { stopped with
      irqLatch := false, inputs := { Inputs.quiet with requests := timRequest } } (fun t =>
      t.power == .stopped && t.pc == 0xE010#16) = true := by decide +kernel

/-- V60.12 with CliDelay = 1, then with CliDelay = 0: the boundary right after a CLI that cleared I. -/
theorem test_cli_window :
    stepGives { irqPending with cliWindow := true } (fun t =>
      t.pc == 0xE011#16 && t.a == 0x12#8 && !t.cliWindow) = true ∧
    stepGives { irqPending with
      cliWindow := true, plat := { Platform.flat with cliDelay := false } } (fun t =>
      t.pc == 0x9100#16) = true := by decide +kernel

/-- R317, D13: a falling edge of the IRQ pin sets the latch, the low pin alone does not, and the environment may. -/
theorem test_irq_edge :
    let low := { Inputs.quiet with irqPin := false, irqPinLater := false }
    stepGives { start [0x9D] ⟨0, 0, 0xFF, 0xE000, 0x68⟩ [] with schedule := [low] } (fun t =>
      t.irqLatch) = true ∧
    stepGives { start [0x9D] ⟨0, 0, 0xFF, 0xE000, 0x68⟩ [] with inputs := low, schedule := [low] } (fun t =>
      !t.irqLatch) = true ∧
    stepGives { start [0x9D] ⟨0, 0, 0xFF, 0xE000, 0x68⟩ [] with
      inputs := low, schedule := [{ low with irqRequest := true }] } (fun t => t.irqLatch) = true := by
  decide +kernel

/-- R255, D13: the pin falls inside BIL, which branches with no request there yet; the next boundary latches it. -/
theorem test_irq_falls_late :
    let falls := { Inputs.quiet with irqPinLater := false }
    stepGives { start [0x2E, 0x10] ⟨0, 0, 0xFF, 0xE000, 0x68⟩ [] with schedule := [falls] } (fun t =>
      t.pc == 0xE012#16 && !t.irqLatch) = true ∧
    stepGives { nopState with inputs := falls } (fun t => t.irqLatch && !t.inputs.irqPin) = true := by
  decide +kernel

/-- V60.13: BIL and BIH with the pin low. -/
theorem test_bil_bih :
    let low (op : Nat) : State :=
      { start [op, 0x10] ⟨0, 0, 0xFF, 0xE000, 0x68⟩ [] with
        inputs := { Inputs.quiet with irqPin := false, irqPinLater := false } }
    stepGives (low 0x2E) (fun t => t.pc == 0xE012#16) = true ∧
    stepGives (low 0x2F) (fun t => t.pc == 0xE002#16) = true := by decide +kernel

/-- V60.11 and R337: the service write to $FFFF clears the counter and no byte changes, and the time-out
resets. -/
theorem test_cop :
    stepGives { start [0xC7, 0xFF, 0xFF] ⟨0x80, 0, 0xFF, 0xE000, 0x68⟩ [(0xFFFF, 0x34)] with
      copCounter := 1000 } (fun t =>
      t.copCounter == 0 && t.mem.read 0xFFFF == 0x34#8 && t.ccr.n) = true ∧
    stepGives { exceptional [0x9D] ⟨0, 0, 0x55, 0xE000, 0x60⟩ with copCounter := 262128 } (fun t =>
      t.resetCause == .cop && t.pc == 0xEC00#16 && t.sp == 0x00FF#16) = true := by decide +kernel

/-- The example part of D1 with `bytes` at PC and the reset vector at $EC00 (R70). -/
def onPart (bytes : List Nat) (r : Regs) : State :=
  { start bytes r [(0x0050, 0x55), (0xFFFE, 0xEC)] with plat := Platform.example908 }

/-- V60.10: a fetch from RAM resets on this part, a read of RAM does not. -/
theorem test_illegal_fetch :
    stepGives (onPart [0x9D] ⟨0, 0, 0x55, 0x0100, 0x68⟩) (fun t => t.resetCause == .illegalAddress) = true ∧
    stepGives (onPart [0xB6, 0x50] ⟨0, 0, 0xFF, 0xEC00, 0x68⟩) (fun t => t.a == 0x55#8) = true := by
  decide +kernel

/-- R335, R339, D6: MOV #$01,CONFIG1 turns the COP off, BSET 3 sets the latch bit, a port read takes pins where
the direction is in, and a store to FLASH changes nothing. -/
theorem test_devices :
    stepGives (onPart [0x6E, 0x01, 0x1F] ⟨0, 0, 0xFF, 0xEC00, 0x68⟩) (fun t =>
      !t.copEnabled && t.config1 == 0x01#8 && t.outputs == [(0x1F, 0x01#8)]) = true ∧
    stepGives { onPart [0x16, 0x00] ⟨0, 0, 0xFF, 0xEC00, 0x68⟩ with ddrA := 0x18#8 } (fun t =>
      t.portA == 0x08#8) = true ∧
    stepGives { onPart [0xB6, 0x01] ⟨0, 0, 0xFF, 0xEC00, 0x68⟩ with
      portB := 0xF0#8, ddrB := 0x3C#8, inputs := { Inputs.quiet with pinsB := 0x5A#8 } } (fun t =>
      t.a == 0x72#8) = true ∧
    stepGives (onPart [0xC7, 0xEC, 0x00] ⟨0x80, 0, 0xFF, 0xEC00, 0x68⟩) (fun t =>
      t.mem.read 0xEC00 == 0xC7#8 && t.stored.isEmpty) = true := by decide +kernel

/-- R17, R266, D4: DBNZ $52 at $0050, whose counter is its own offset byte, branches by the byte it stored. -/
theorem test_dbnz_own_offset : vectorsHold [
    ⟨[0x3B, 0x52, 0x05], ⟨0, 0, 0xFF, 0x0050, 0x68⟩, [], ⟨0, 0, 0xFF, 0x0057, 0x68⟩, [(0x52, 0x04)], 5⟩,
    ⟨[0x3B, 0x52, 0x01], ⟨0, 0, 0xFF, 0x0050, 0x68⟩, [], ⟨0, 0, 0xFF, 0x0053, 0x68⟩, [(0x52, 0x00)], 5⟩]
    = true := by decide +kernel

/-- R354, U8: an image is loaded where it fills every vector it uses, one of $0000 too; it is refused with one half
filled, without the vector of a source it enables, or without SWI's where it uses SWI. -/
theorem test_load_image :
    let reset : List Host.Cell := [(0xFFFE, 0x00#8), (0xFFFF, 0x00#8)]
    let refusedFor (i : Image) (v : Word) : Bool :=
      match State.reset.load i with
      | .ok _ => false
      | .error (.unprogrammed w) => w == v
    (match State.reset.load ⟨[(0xEC00, 0x9D#8), (0xFFFE, 0xEC#8), (0xFFFF, 0x00#8)], [], false⟩ with
      | .ok t => t.pc == 0xEC00#16 && t.mem == [(0xEC00, 0x9D#8), (0xFFFE, 0xEC#8)]
      | .error _ => false) = true ∧
    (match State.reset.load ⟨reset, [], false⟩ with
      | .ok t => t.pc == 0x0000#16 && t.mem.isEmpty
      | .error _ => false) = true ∧
    refusedFor ⟨[(0xFFFE, 0xEC#8)], [], false⟩ 0xFFFE#16 = true ∧
    refusedFor ⟨reset, [.adc, .irq1], false⟩ 0xFFFA#16 = true ∧
    refusedFor ⟨reset, [], true⟩ 0xFFFC#16 = true := by decide +kernel

/-- U8: the machine itself takes a reset or an interrupt through any vector, with whatever its bytes hold. -/
theorem test_unfilled_vector :
    stepGives (start [0x8D] ⟨0, 0, 0xFF, 0xE000, 0x60⟩ []) (fun t =>
      t.pc == 0x0000#16 && t.resetCause == .illegalOpcode) = true ∧
    stepGives { start [0x9D] ⟨0, 0, 0xFF, 0xE000, 0x60⟩ [] with
      irqLatch := true, enable := { SourceFlags.none with irq1 := true } } (fun t =>
      t.pc == 0x0000#16 && t.ccr.i && t.sp == 0x00FA#16) = true ∧
    stepGives (start [0x83] ⟨0, 0, 0xFF, 0xE000, 0x60⟩ []) (fun t => t.pc == 0x0000#16) = true := by
  decide +kernel

/-- R327, R342, log 16: a TIM overflow already pending when STOP executes does not end STOP; one pending when WAIT
executes does, at the boundary after. -/
theorem test_pending_at_stop :
    let s (op : Nat) : State := { exceptional [op] ⟨0, 0, 0xFF, 0xE000, 0x68⟩ with
      inputs := { Inputs.quiet with requests := timRequest } }
    stepGives (s 0x8E) (fun t => stepGives t fun u => u.power == .stopped && u.pc == 0xE001#16) = true ∧
    stepGives (s 0x8F) (fun t => stepGives t fun u => u.power == .running && u.pc == 0x9200#16) = true := by
  decide +kernel

/-- R64, U11, D4: LDA dd at $FFFF takes its operand byte from port A at $0000 and then reads port A, where the pins
have changed in between. -/
theorem test_pins_change :
    stepGives { onPart [0xB6] ⟨0, 0, 0xFF, 0xFFFF, 0x68⟩ with
      inputs := { Inputs.quiet with pinReads := [⟨0, .b, 0x11#8⟩, ⟨0, .a, 0x5A#8⟩] } } (fun t =>
      t.a == 0x5A#8 && t.pc == 0x0001#16) = true := by decide +kernel

/-- R68: STA at $FFFE to the port at $0000, which the next instruction would be fetched from, is refused there; a
store to FLASH at the next instruction (D5) is not. -/
theorem test_store_to_next_device :
    let s := { onPart [0xB7, 0x00] ⟨0x9D, 0, 0xFF, 0xFFFE, 0x68⟩ with
      plat := { Platform.example908 with legalFetch := [⟨0, 65535⟩] } }
    stepGives s (fun t => t.portA == 0x9D#8 && step t matches .refused .storeToNextOpcode) = true ∧
    stepGives (onPart [0xC7, 0xEC, 0x03, 0x9D] ⟨0, 0, 0xFF, 0xEC00, 0x68⟩) (fun t =>
      stepGives t fun u => u.pc == 0xEC04#16) = true := by decide +kernel

/-- R68: the instruction after a store to its own first byte is refused; the boundary after that window is not. -/
theorem test_store_to_next :
    (step { start [0x9D] ⟨0, 0, 0xFF, 0xE000, 0x68⟩ [] with stored := [0xE000#16] }
      matches .refused .storeToNextOpcode) = true ∧
    stepGives (start [0xB7, 0x50] ⟨0x11, 0, 0xFF, 0xE000, 0x68⟩ []) (fun t =>
      t.stored == [0x0050#16]) = true := by decide +kernel

/-- R318, log 11: a write to an I/O address sets the enable bits that lie there, and no other. -/
theorem test_enable_bits :
    let s := { onPart [0xB7, 0x2A] ⟨0x40, 0, 0xFF, 0xEC00, 0x68⟩ with
      enable := { SourceFlags.none with adc := true, irq1 := true }
      plat := { Platform.example908 with
        enableBits := [⟨0x2A, 6#3, .timOverflow⟩, ⟨0x2A, 5#3, .adc⟩, ⟨0x2B, 6#3, .irq1⟩] } }
    stepGives s (fun t => t.enable.timOverflow && !t.enable.adc && t.enable.irq1) = true := by decide +kernel

/-- R371: 1283 bus cycles at 8 MHz take 160.375 microseconds. -/
theorem test_nanoseconds : Platform.flat.nanoseconds 1283 = 160375 := by decide

/-! Witnesses: for each statement with hypotheses, a state and operands that meet them together, each clause at
a boundary value. -/

/-- The hypotheses of a plain step hold: no reset, no interrupt, running, a legal fetch, no store to the first
byte. -/
def plainStep (s : State) : Bool :=
  s.arrive.resetRequest.isNone && s.arrive.interrupt.isNone && s.power == .running
    && !s.plat.illegalFetch s.pc && !s.stored.contains s.pc

theorem witness_DecodeEncode : (Instr.sta (.sp2 0xFFFF#16)).wellFormed = true := by decide

theorem witness_EncodeDecode : decode [0x9E#8, 0xD7#8, 0xFF#8, 0x00#8, 0x9D#8] =
    .ok (.sta (.sp2 0xFF00#16), [0x9D#8]) := by decide

theorem witness_IllegalOpcodes :
    let s := exceptional [0x9E, 0x4B] ⟨0, 0, 0xFF, 0xE000, 0x68⟩
    plainStep s = true ∧ ∃ e, decode s.arrive.fetchBytes = .error e :=
  ⟨by decide +kernel, .illegalAfterPrebyte 0x4B#8, by decide +kernel⟩

theorem witness_StepRunsDecoded : plainStep nopState = true ∧
    decode nopState.arrive.fetchBytes = .ok (.nop, [0#8, 0#8, 0#8]) := by decide +kernel

/-- Each clause: the pin, the COP at its time-out, one cycle before it, the COP off, and an illegal fetch. -/
theorem witness_ResetCauses :
    ({ nopState with schedule := [{ Inputs.quiet with reset := some .lvi }] } : State).arrive.inputs.reset
      = some .lvi ∧
    (let s : State := { nopState with copCounter := 262128 };
      s.arrive.inputs.reset = none ∧ s.copEnabled = true ∧ s.plat.copTimeout ≤ s.copCounter) ∧
    (let s : State := { nopState with copCounter := 262127 };
      s.arrive.inputs.reset = none ∧ s.copCounter < s.plat.copTimeout) ∧
    (let s : State := { nopState with copCounter := 262128, copEnabled := false };
      s.arrive.inputs.reset = none ∧ s.copEnabled = false) ∧
    let s := onPart [0x9D] ⟨0, 0, 0x55, 0xEBFF, 0x68⟩;
    s.arrive.resetRequest = none ∧ s.arrive.interrupt = none ∧ s.power = .running ∧
      s.plat.illegalFetch s.pc = true := by decide +kernel

/-- The table's sources differ in priority. The highest source and the lowest alone are taken; none is with I set,
in the CLI window, or with no request. -/
theorem witness_InterruptCondition :
    (irqPending.plat.sources.Pairwise fun p q => p.priority ≠ q.priority) ∧
    irqPending.interrupt = some ⟨.irq1, 0xFFFA#16, 1⟩ ∧
    (let s : State := { irqPending with
        irqLatch := false, power := .waiting
        inputs := { Inputs.quiet with requests := { SourceFlags.none with timebase := true } } };
      s.interrupt = some ⟨.timebase, 0xFFDC#16, 11⟩) ∧
    ({ irqPending with ccr := { irqPending.ccr with i := true } } : State).interrupt = none ∧
    ({ irqPending with cliWindow := true } : State).interrupt = none ∧ nopState.interrupt = none := by
  decide +kernel

theorem witness_InterruptStep : irqPending.arrive.resetRequest = none ∧
    irqPending.arrive.interrupt = some ⟨.irq1, 0xFFFA#16, 1⟩ := by decide +kernel

/-- The frame lies in RAM, at $0100 to $00FC. -/
theorem witness_InterruptEntry : irqPending.mem.wf = true ∧
    [0x0100#16, 0x00FF#16, 0x00FE#16, 0x00FD#16, 0x00FC#16].all
      ({ irqPending with sp := 0x0100#16 } : State).ramAt = true := by decide +kernel

theorem witness_HaltedStays :
    ∀ p ∈ [Power.stopped, Power.waiting],
      ({ nopState with power := p } : State).power ≠ .running ∧
      ({ nopState with power := p } : State).arrive.resetRequest = none ∧
      ({ nopState with power := p } : State).arrive.interrupt = none := by decide +kernel

/-- The refusal happens, and a step that gives a next state. -/
theorem witness_OnlyRefusal :
    (step { nopState with stored := [0xE000#16] } matches .refused .storeToNextOpcode) = true ∧
    stepGives nopState (fun _ => true) = true := by decide +kernel

/-- No inputs scheduled; a falling edge; both ways to lose the latch: a reset, and the entry. -/
theorem witness_LatchKept :
    (let s : State := { nopState with inputs := { Inputs.quiet with irqPinLater := false } };
      s.schedule = [] ∧ s.irqLatch = false ∧ s.arrive.irqLatch = true) ∧
    (let s : State := { nopState with
        schedule := [{ Inputs.quiet with irqPin := false, irqPinLater := false }, Inputs.quiet] };
      s.inputs.irqPinLater = true ∧ s.irqLatch = false ∧ s.arrive.irqLatch = true ∧
        s.arrive.schedule = [Inputs.quiet]) ∧
    irqPending.irqLatch = true ∧ stepGives irqPending (fun t => !t.irqLatch) = true ∧
    stepGives { irqPending with schedule := [{ Inputs.quiet with reset := some .externalPin }] }
      (fun t => !t.irqLatch) = true := by decide +kernel

/-- The three ways to set I: SEI, an interrupt, a reset. -/
theorem witness_WhatSetsI :
    stepGives (start [0x9B] ⟨0, 0, 0xFF, 0xE000, 0x60⟩ []) (fun t => t.ccr.i) = true ∧
    irqPending.ccr.i = false ∧ stepGives irqPending (fun t => t.ccr.i) = true ∧
    stepGives (exceptional [0x8D] ⟨0, 0, 0xFF, 0xE000, 0x60⟩) (fun t => t.ccr.i) = true := by decide +kernel

/-- A loaded image, each of its cells at its own address in memory (test_load_image has the refused ones). -/
theorem witness_StateAfterReset :
    let cells : List Host.Cell := [(0x0000, 0x9D#8), (0xFFFE, 0xEC#8), (0xFFFF, 0x00#8)]
    State.reset.mem.wf = true ∧ (cells.map (·.1)).Nodup ∧
    (match State.reset.load ⟨cells, [], false⟩ with
      | .ok _ => true
      | .error _ => false) = true := by decide +kernel

/-- A reset cause other than power-on, the Reset Status Register, and an address that is no RAM. -/
theorem witness_ResetLeaves : ResetCause.cop ≠ .powerOn ∧
    ({ Platform.example908 with map := [⟨0xFE01, 1, .resetStatus⟩] } : Platform).spaceAt 0xFE01#16 =
      .resetStatus ∧
    (onPart [] ⟨0, 0, 0xFF, 0xEC00, 0x68⟩).plat.spaceAt 0xEC00#16 ≠ .ram := by decide +kernel

/-- A running state and a halted one have the invariant, and their steps give next states. -/
theorem witness_StepKeepsInv :
    (nopState.mem.wf = true ∧ (nopState.power ≠ .running → nopState.ccr.i = false)) ∧
    stepGives nopState (fun _ => true) = true ∧
    let halted : State := { irqPending with power := .stopped }
    (halted.mem.wf = true ∧ (halted.power ≠ .running → halted.ccr.i = false)) ∧
    stepGives halted (fun _ => true) = true := by decide +kernel

/-- A store aimed at FLASH, on the part that has it. -/
theorem witness_RomNeverChanges :
    let s := onPart [0xC7, 0xEC, 0x00] ⟨0x80, 0, 0xFF, 0xEC00, 0x68⟩
    stepGives s (fun _ => true) = true ∧ s.plat.spaceAt 0xEC00#16 ≠ .ram := by decide +kernel

/-- An enable bit that alone of its address belongs to its source. Every kind of address: the service address, RAM at both ends, FLASH, the monitor ROM, a hole, the ports,
the directions, the configuration registers, the Reset Status Register, an I/O register. -/
theorem witness_BusWrite :
    (onPart [] ⟨0, 0, 0xFF, 0xEC00, 0x68⟩).mem.wf = true ∧
    (let bits : List EnableBit := [⟨0x2A, 7#3, .timOverflow⟩, ⟨0x2A, 0#3, .adc⟩];
      ∀ e ∈ bits, e.address = 0x2A ∧ ∀ d ∈ bits, d.source = e.source → d = e) ∧
    let p : Platform := { Platform.example908 with
      map := [⟨0xFE01, 1, .resetStatus⟩, ⟨0xFE20, 0x100, .monitorRom⟩] ++ Platform.example908.map };
    [0x0040#16, 0x013F#16, 0xEC00#16, 0xFE20#16, 0x0140#16, 0x0000#16, 0x0001#16, 0x0004#16, 0x0005#16,
      0x001F#16, 0x001E#16, 0xFE01#16, 0x003F#16].map p.spaceAt =
    [.ram, .ram, .rom, .monitorRom, .unimplemented, .portData .a, .portData .b, .portDirection .a,
      .portDirection .b, .config1, .config2, .resetStatus, .io] := by decide +kernel

theorem witness_BusReads :
    (nopState.mem.wf = true ∧ nopState.ramAt 0x0000#16 = true ∧ nopState.ramAt 0xFFFE#16 = true) ∧
    Platform.example908.spaceAt 0x0000#16 = .portData .a ∧
    Platform.example908.spaceAt 0x0001#16 = .portData .b ∧ (0 : Nat) ≠ 9 := by decide +kernel

theorem witness_MixedWidth :
    (let s : State := { nopState with h := 0x12#8, x := 0x34#8 };
      s.mem.wf = true ∧ s.ramAt 0x0050#16 = true ∧ s.ramAt 0x0051#16 = true ∧ s.hx = 0x1234#16) ∧
    let s : State := { nopState with sp := 0x00FF#16, pc := 0x8123#16 };
    s.mem.wf = true ∧ s.ramAt 0x00FF#16 = true ∧ s.ramAt 0x00FE#16 = true ∧ s.sp = 0x00FF#16 ∧
      s.pc = 0x8123#16 := by decide +kernel

theorem witness_StackPointerWraps : ({ nopState with sp := 0x0000#16 } : State).sp = 0x0000#16 ∧
    ({ nopState with sp := 0xFFFF#16 } : State).sp = 0xFFFF#16 := by decide

theorem witness_EveryInstructionCompletes : nopState.mem.wf = true := by decide +kernel

theorem witness_WritesNoFlag : (Instr.bsr 0x80#8).writesNoFlag = true ∧
    ∃ t, exec (.bsr 0x80#8) nopState = .next t := ⟨rfl, _, rfl⟩

/-- For each clause an instruction outside its list, and one that gives a next state. -/
theorem witness_FrameOfEveryInstruction :
    (Instr.nop.writesA || Instr.nop.writesX || Instr.nop.writesH || Instr.nop.writesSP || Instr.nop.writesPC
      || Instr.nop.writesV || Instr.nop.writesHf || Instr.nop.writesI || Instr.nop.writesN || Instr.nop.writesZ
      || Instr.nop.writesC || Instr.nop.writesMemory) = false ∧
    ∃ t, exec .nop nopState = .next t := ⟨by decide, _, rfl⟩

/-- Canonical memory, in a memory that lists cells and in the memory after reset. -/
theorem witness_canonicalMemory : irqPending.mem.wf = true ∧ irqPending.mem ≠ [] ∧
    State.reset.mem.wf = true := by decide +kernel

theorem witness_Stores : irqPending.mem.wf = true := witness_canonicalMemory.1
theorem witness_PushesAndPulls : irqPending.mem.wf = true := witness_canonicalMemory.1
theorem witness_Moves : irqPending.mem.wf = true := witness_canonicalMemory.1
theorem witness_IncrementDecrement : irqPending.mem.wf = true := witness_canonicalMemory.1
theorem witness_ComplementNegate : irqPending.mem.wf = true := witness_canonicalMemory.1
theorem witness_ClearTest : irqPending.mem.wf = true := witness_canonicalMemory.1
theorem witness_BitWrites : irqPending.mem.wf = true := witness_canonicalMemory.1
theorem witness_LeftShifts : irqPending.mem.wf = true := witness_canonicalMemory.1
theorem witness_RightShifts : irqPending.mem.wf = true := witness_canonicalMemory.1
/-- The counter is the offset byte itself, in RAM. -/
theorem witness_LoopBranches : irqPending.mem.wf = true ∧
    (let s : State := { nopState with pc := 0x0053#16 };
      s.ramAt (s.ea (.dir 0x52#8)) = true ∧ s.ea (.dir 0x52#8) = s.pc - 1) := by decide +kernel
theorem witness_JumpsAndCalls : irqPending.mem.wf = true := witness_canonicalMemory.1

/-- A quotient of 255, the largest that fits: H is one less than X. -/
theorem witness_MultiplyDivide :
    let s := start [0x52] ⟨0xFF, 0x0102, 0xFF, 0xE000, 0x68⟩ []
    s.h.toNat < s.x.toNat := by decide

/-- The operand in RAM, at the lowest and at the highest address but $FFFF. -/
theorem witness_RotatesInvert : nopState.mem.wf = true ∧
    nopState.ramAt (nopState.ea (.dir 0x00#8)) = true ∧
    (let s : State := { nopState with h := 0xFF#8, x := 0xFE#8 };
      s.ea .ix = 0xFFFE#16 ∧ s.ramAt (s.ea .ix) = true) := by decide +kernel

theorem witness_FlagInstructions : nopState.ccr.i = true := by decide

theorem witness_ClearInterruptMask : nopState.ccr.i = true ∧ nopState.power = .running ∧
    nopState.plat.cliDelay = true := by decide

/-- The stack bytes at the top and at the bottom of memory. -/
theorem witness_CallReturns : nopState.mem.wf = true ∧
    ([0x00FF#16, 0x0001#16, 0xFFFE#16].all fun sp => nopState.ramAt sp && nopState.ramAt (sp - 1)) = true := by
  decide +kernel

theorem witness_InterruptTransparent : irqPending.mem.wf = true ∧
    ∀ k : Nat, k < 5 → irqPending.ramAt (irqPending.sp - BitVec.ofNat 16 k) = true := by decide +kernel

/-- For each of the nine rows a state at its first and one at its last A, C and Hf as the row has them; and one
outside the table. -/
theorem witness_DecimalAdjustTable :
    ([(0x68, 0x00), (0x68, 0x99), (0x68, 0x0A), (0x68, 0x8F), (0x78, 0x00), (0x78, 0x93), (0x68, 0xA0),
      (0x68, 0xF9), (0x68, 0x9A), (0x68, 0xFF), (0x78, 0xA0), (0x78, 0xF3), (0x69, 0x00), (0x69, 0x29),
      (0x69, 0x0A), (0x69, 0x2F), (0x79, 0x00), (0x79, 0x33)].all fun (ccr, a) =>
        (daaRow (CCR.ofByte ccr) a).isSome) = true ∧
    daaRow (CCR.ofByte 0x69#8) 0x30#8 = none := by decide +kernel

/-- Two packed BCD bytes, the largest: 99 and 99. -/
theorem witness_DecimalAdjustCorrect : (99 < 100 ∧ 99 < 100) ∧
    ({ nopState with a := 0x99#8 } : State).a = BitVec.ofNat 8 (16 * (99 / 10 % 10) + 99 % 10) := by decide

end Sys2Proof.Tests
end

section
/-! The scope family, part 1: what an instruction's encoding and the decoder say about its length, and the step
that runs a decoded instruction (R80, R83, R326, R327). -/

namespace Sys2Proof

/-- Every instruction the cell stands for is encoded in `n` opcode bytes and the operand bytes the cell reads. -/
def OpcodeCell.EncodedIn (n : Nat) : OpcodeCell → Prop
  | .illegal => True
  | .op0 i => (encode i).length = n
  | .op1 f => ∀ b, (encode (f b)).length = n + 1
  | .op2 f => ∀ b c, (encode (f b c)).length = n + 2

@[simp] theorem OpcodeCell.encodedIn_illegal (n : Nat) : OpcodeCell.illegal.EncodedIn n := trivial

@[simp] theorem OpcodeCell.encodedIn_op0 (n : Nat) (i : Instr) :
    (OpcodeCell.op0 i).EncodedIn n ↔ (encode i).length = n := Iff.rfl

@[simp] theorem OpcodeCell.encodedIn_op1 (n : Nat) (f : Byte → Instr) :
    (OpcodeCell.op1 f).EncodedIn n ↔ ∀ b, (encode (f b)).length = n + 1 := Iff.rfl

@[simp] theorem OpcodeCell.encodedIn_op2 (n : Nat) (f : Byte → Byte → Instr) :
    (OpcodeCell.op2 f).EncodedIn n ↔ ∀ b c, (encode (f b c)).length = n + 2 := Iff.rfl

/-- What a cell reads from the bytes is as long as the encoding of the instruction it gives, opcode bytes apart. -/
theorem OpcodeCell.length_of_read {n : Nat} {cell : OpcodeCell} (hc : cell.EncodedIn n) {bs rest : List Byte}
    {err : DecodeError} {i : Instr} (h : cell.read bs err = .ok (i, rest)) :
    (encode i).length + rest.length = n + bs.length := by
  cases cell with
  | illegal => cases h
  | op0 j =>
    cases h
    rw [OpcodeCell.encodedIn_op0] at hc
    omega
  | op1 f =>
    match bs, h with
    | b :: bs, h =>
      cases h
      rw [hc b, List.length_cons]
      omega
  | op2 f =>
    match bs, h with
    | b :: c :: bs, h =>
      cases h
      rw [hc b c, List.length_cons, List.length_cons]
      omega

/-- A page all of whose cells have the property has it at every opcode byte. -/
theorem cellAt_encodedIn {n : Nat} {page : List (List OpcodeCell)}
    (h : ∀ column ∈ page, ∀ cell ∈ column, cell.EncodedIn n) (op : Byte) : (cellAt page op).EncodedIn n := by
  rw [cellAt, List.getD_eq_getElem?_getD, List.getD_eq_getElem?_getD]
  cases hcol : page[op.toNat / 16]? with
  | none => simp
  | some column =>
    rw [Option.getD_some]
    cases hcell : column[op.toNat % 16]? with
    | none => simp
    | some cell => exact h column (List.mem_of_getElem? hcol) cell (List.mem_of_getElem? hcell)

/-- Every cell of the main page has one opcode byte (R90). -/
theorem mainPage_encodedIn : ∀ column ∈ mainPage, ∀ cell ∈ column, cell.EncodedIn 1 := by
  simp [mainPage, bitBranchColumn, bitChangeColumn, branchColumn, rmwColumn, accumulatorColumn, indexColumn,
    controlColumn, registerColumn, aluColumn, encode, encodeRmw, encodeAlu, encodeAluMem, encodeJump,
    MemOperand.isRmw, MemOperand.isJump]

/-- Every cell of the pre-byte page has two, the pre-byte and its own (R88, R91). -/
theorem preBytePage_encodedIn : ∀ column ∈ preBytePage, ∀ cell ∈ column, cell.EncodedIn 2 := by
  simp [preBytePage, emptyColumn, rmwColumn, aluColumn, encode, encodeRmw, encodeAlu, encodeAluMem,
    MemOperand.isRmw]

/-- After the pre-byte, the byte that follows selects the cell of its page (R88, R91). -/
theorem decode_preByte_cons (op : Byte) (bs : List Byte) :
    decode (preByte :: op :: bs) = (cellAt preBytePage op).read bs (.illegalAfterPrebyte op) := rfl

/-- Any other first byte selects the cell of the main page (R90). -/
theorem decode_cons_of_ne {op : Byte} (h : op ≠ preByte) (bs : List Byte) :
    decode (op :: bs) = (cellAt mainPage op).read bs (.illegalOpcode op) := if_neg h

/-- Decoding takes as many bytes as the instruction's encoding has. -/
theorem length_encode_of_decode {bs rest : List Byte} {i : Instr} (h : decode bs = .ok (i, rest)) :
    (encode i).length + rest.length = bs.length := by
  match bs with
  | [] => cases h
  | op :: bs =>
    by_cases hp : op = preByte
    · subst hp
      match bs with
      | [] => cases h
      | op2 :: bs =>
        rw [decode_preByte_cons] at h
        rw [OpcodeCell.length_of_read (cellAt_encodedIn preBytePage_encodedIn op2) h, List.length_cons,
          List.length_cons]
        omega
    · rw [decode_cons_of_ne hp] at h
      rw [OpcodeCell.length_of_read (cellAt_encodedIn mainPage_encodedIn op) h, List.length_cons]
      omega

end Sys2Proof

namespace Sys2Proof.Machine

/-- The step looks at four bytes (R80). -/
@[simp] theorem State.length_fetchBytes (s : State) : s.fetchBytes.length = 4 := rfl

/-- With no reset and no interrupt a running CPU fetches (R326). -/
theorem step_eq_runInstr {s : State} (hr : s.arrive.resetRequest = none) (hi : s.arrive.interrupt = none)
    (hp : s.power = .running) : step s = s.arrive.runInstr := by
  rw [step_eq, hr, hi, hp]

/-- A legal fetch of bytes that decode, not stored to by the instruction before, runs their instruction (R326). -/
theorem State.runInstr_of_decode {s : State} {i : Instr} {rest : List Byte}
    (hl : s.plat.illegalFetch s.pc = false) (hs : s.pc ∉ s.stored) (hd : decode s.fetchBytes = .ok (i, rest)) :
    s.runInstr = exec i (s.begin (encode i).length i.cycles) := by
  have hn : 4 - rest.length = (encode i).length := by
    have := length_encode_of_decode hd
    rw [State.length_fetchBytes] at this
    omega
  rw [State.runInstr_eq, hl, if_neg Bool.false_ne_true, if_neg hs, hd, ← hn]

/-- Settles O5: the boundary leaves PC, the record of stores and the COP counter to the fetch, and the bytes the
decoder takes are as many as the encoding has. -/
theorem stepRunsDecoded : Obligations.StepRunsDecoded := by
  intro s i rest hr hi hp hl hs hd
  rw [step_eq_runInstr hr hi hp, State.runInstr_of_decode (by simpa using hl) (by simpa using hs) hd]
  simp only [State.begin, State.arrive_pc, State.arrive_copCounter]

end Sys2Proof.Machine
end

section
/-! The scope family, part 2: CBEQ and DBNZ (R17, R265, R266; log 37). -/

namespace Sys2Proof.Machine

/-- A word and an unsigned byte offset, as numbers (R111). -/
theorem add_zext16 (w : Word) (b : Byte) : w + zext16 b = BitVec.ofNat 16 (w.toNat + b.toNat) := by
  apply BitVec.eq_of_toNat_eq
  rw [BitVec.toNat_add, toNat_zext16, BitVec.toNat_ofNat]

/-- One less, as an integer modulo 2^8. -/
theorem sub_one_byte (v : Byte) : BitVec.ofInt 8 (v.toNat - 1) = v - 1#8 := by
  apply BitVec.eq_of_toNat_eq
  simp [BitVec.toNat_sub]
  omega

/-- The decremented byte is not 0 exactly where the byte was not 1 (R266). -/
theorem sub_one_bne_zero (v : Byte) : (v - 1#8 != 0#8) = decide (v.toNat ≠ 1) := by
  rw [Bool.eq_iff_iff, bne_iff_ne, decide_eq_true_eq, ne_eq, ne_eq, not_iff_not, ← BitVec.toNat_inj]
  simp [BitVec.toNat_sub]
  omega

/-- A byte is never its own decrement. -/
theorem sub_one_ne_self (v : Byte) : v - 1#8 ≠ v := by
  bv_omega

/-- H:X as a word is its number (R11). -/
theorem State.hx_eq (s : State) : s.hx = BitVec.ofNat 16 (256 * s.h.toNat + s.x.toNat) := join_eq s.h s.x

/-- H:X one higher, byte by byte (R124, R125). -/
theorem State.setHX_hx_add_one (s : State) :
    s.setHX (s.hx + 1) = { s with
      h := BitVec.ofNat 8 ((256 * s.h.toNat + s.x.toNat + 1) / 256)
      x := BitVec.ofNat 8 (256 * s.h.toNat + s.x.toNat + 1) } := by
  have hn : (s.hx + 1).toNat = (256 * s.h.toNat + s.x.toNat + 1) % 65536 := by
    rw [BitVec.toNat_add, s.toNat_hx]
    rfl
  have hh : hiByte (s.hx + 1) = BitVec.ofNat 8 ((256 * s.h.toNat + s.x.toNat + 1) / 256) := by
    apply BitVec.eq_of_toNat_eq
    rw [hiByte_toNat, hn, BitVec.toNat_ofNat]
    omega
  have hx : loByte (s.hx + 1) = BitVec.ofNat 8 (256 * s.h.toNat + s.x.toNat + 1) := by
    apply BitVec.eq_of_toNat_eq
    rw [loByte_toNat, hn, BitVec.toNat_ofNat]
    omega
  rw [State.setHX, hh, hx]

/-- RAM answers a read with the byte of memory. -/
theorem State.read_of_ramAt {s : State} {a : Word} (ha : s.ramAt a = true) (k : Nat) :
    s.read k a = s.mem.read a.toNat := by
  rw [State.ramAt_eq, decide_eq_true_eq] at ha
  rw [State.read, ha.2]

/-! The meanings, each said once -/

/-- CBEQ on memory: the post-increment, then PC by the comparison (R265). -/
theorem exec_cbeq (m : CmpOperand) (rr : Byte) (s : State) :
    exec (.cbeq m rr) s = .next { s.postIncrement m with
      pc := if decide (s.a = s.read 0 (s.cmpEa m)) then s.branchTarget rr else s.pc } := by
  change execCbeq m rr s = _
  simp only [execCbeq, State.branch_eq, State.branchTarget, State.postIncrement_pc, beq_eq_decide]

/-- CBEQA: PC by the comparison (R265). -/
theorem exec_cbeqa (ii rr : Byte) (s : State) :
    exec (.cbeqa ii rr) s = .next { s with
      pc := if decide (s.a = ii) then s.branchTarget rr else s.pc } := by
  change execCbeqa ii rr s = _
  rw [execCbeqa, State.branch_eq, beq_eq_decide]

/-- CBEQX: PC by the comparison (R265). -/
theorem exec_cbeqx (ii rr : Byte) (s : State) :
    exec (.cbeqx ii rr) s = .next { s with
      pc := if decide (s.x = ii) then s.branchTarget rr else s.pc } := by
  change execCbeqx ii rr s = _
  rw [execCbeqx, State.branch_eq, beq_eq_decide]

/-- DBNZA: A one less, PC by whether it was 1 (R266). -/
theorem exec_dbnza (rr : Byte) (s : State) :
    exec (.dbnza rr) s = .next { s with
      a := s.a - 1#8, pc := if decide (s.a.toNat ≠ 1) then s.branchTarget rr else s.pc } := by
  change execDbnza rr s = _
  simp only [execDbnza, State.branch_eq, State.branchTarget, sub_one_bne_zero]

/-- DBNZX: X one less, PC by whether it was 1 (R266). -/
theorem exec_dbnzx (rr : Byte) (s : State) :
    exec (.dbnzx rr) s = .next { s with
      x := s.x - 1#8, pc := if decide (s.x.toNat ≠ 1) then s.branchTarget rr else s.pc } := by
  change execDbnzx rr s = _
  simp only [execDbnzx, State.branch_eq, State.branchTarget, sub_one_bne_zero]

/-- DBNZ on memory: one store of the byte one less, then PC by whether it was 1, with the offset fetched after the
store (R266, R17; log 37). -/
theorem exec_dbnz (m : MemOperand) (rr : Byte) (s : State) :
    exec (.dbnz m rr) s = .next
      (let v := s.read 0 (s.ea m)
       let t := s.write (s.ea m) (v - 1#8)
       { t with pc := if decide (v.toNat ≠ 1)
                  then s.branchTarget (s.fetchedAfter t m.offsetRead rr) else s.pc }) := by
  change execDbnz m rr s = _
  simp only [execDbnz, State.branch_eq, State.branchTarget, State.write_pc, sub_one_bne_zero]

/-- The offset DBNZ goes by, where the counter is RAM: the decremented counter exactly where it is the offset byte
itself, the byte fetched with the instruction everywhere else (log 37). -/
theorem State.fetchedAfter_decrement (s : State) (a : Word) (rr : Byte) (k : Nat) (hm : s.mem.wf = true)
    (ha : s.ramAt a = true) :
    s.fetchedAfter (s.write a (s.read 0 a - 1#8)) k rr = if a = s.pc - 1 then s.read 0 a - 1#8 else rr := by
  split
  · next h =>
    subst h
    refine s.fetchedAfter_write_eq _ rr k hm ha ?_
    rw [State.read_of_ramAt ha, State.read_of_ramAt ha]
    exact sub_one_ne_self _
  · next h => exact s.fetchedAfter_write_ne _ rr k ha h

/-- Settles O52: each form by its meaning, DBNZ on memory by its one store and the offset fetched after it. -/
theorem loopBranches : Obligations.LoopBranches := by
  intro s rr
  simp only [sub_one_byte]
  refine ⟨fun dd => ?_, fun ff => ?_, ?_, fun ff => ?_, fun ii => exec_cbeqa ii rr s,
    fun ii => exec_cbeqx ii rr s, fun m hm => ⟨_, exec_dbnz m rr s, ?_, ?_, ?_⟩, exec_dbnza rr s, exec_dbnzx rr s⟩
  · rw [exec_cbeq, State.cmpEa, zext16_eq]
    rfl
  · rw [exec_cbeq, State.cmpEa, add_zext16]
    rfl
  · rw [exec_cbeq, State.cmpEa, State.hx_eq, State.postIncrement, State.setHX_hx_add_one]
  · rw [exec_cbeq, State.cmpEa, add_zext16, State.toNat_hx, State.postIncrement, State.setHX_hx_add_one]
  · simp [State.cpu, State.fetchedAfter]
  · exact s.fetchedAfter_decrement _ rr _ hm
  · exact (s.storesExactly_write _ _ hm).of_eq rfl rfl rfl rfl

end Sys2Proof.Machine
end

section
/-! The state family, part 1: which parts of the state each instruction may write (R20 to R36, R61). The frame of an
instruction is put together from the frames of the operations it is made of. -/

namespace Sys2Proof.Machine

/-- A part of the state for which the spec lists the instructions that write it. -/
inductive Part where
  | a | x | h | sp | pc
  | v | hf | i | n | z | c
  /-- Memory, the devices and the record of stores. -/
  | memory
  /-- The STOP and WAIT latches. -/
  | power
  /-- The CLI window. -/
  | window

/-- The instruction is in the list of the part. -/
def Part.writtenBy : Part → Instr → Bool
  | .a, j => j.writesA
  | .x, j => j.writesX
  | .h, j => j.writesH
  | .sp, j => j.writesSP
  | .pc, j => j.writesPC
  | .v, j => j.writesV
  | .hf, j => j.writesHf
  | .i, j => j.writesI
  | .n, j => j.writesN
  | .z, j => j.writesZ
  | .c, j => j.writesC
  | .memory, j => j.writesMemory
  | .power, j => j == .stop || j == .wait
  | .window, j => j == .cli || j == .tap

/-- The part of `t` is that of `s`. -/
def Part.Same : Part → State → State → Prop
  | .a, s, t => t.a = s.a
  | .x, s, t => t.x = s.x
  | .h, s, t => t.h = s.h
  | .sp, s, t => t.sp = s.sp
  | .pc, s, t => t.pc = s.pc
  | .v, s, t => t.ccr.v = s.ccr.v
  | .hf, s, t => t.ccr.hf = s.ccr.hf
  | .i, s, t => t.ccr.i = s.ccr.i
  | .n, s, t => t.ccr.n = s.ccr.n
  | .z, s, t => t.ccr.z = s.ccr.z
  | .c, s, t => t.ccr.c = s.ccr.c
  | .memory, s, t => t.mem = s.mem ∧ t.devices = s.devices ∧ t.stored = s.stored
  | .power, s, t => t.power = s.power
  | .window, s, t => t.cliWindow = s.cliWindow

/-- Between `s` and `t` only parts that have the instruction in their list differ. -/
def Frame (j : Instr) (s t : State) : Prop := ∀ p : Part, p.writtenBy j = false → p.Same s t

/-- Between `f` and `g` only flags that have the instruction in their list differ. -/
structure KeepsFlags (j : Instr) (f g : CCR) : Prop where
  v : j.writesV = false → g.v = f.v
  hf : j.writesHf = false → g.hf = f.hf
  i : j.writesI = false → g.i = f.i
  n : j.writesN = false → g.n = f.n
  z : j.writesZ = false → g.z = f.z
  c : j.writesC = false → g.c = f.c

variable {j : Instr} {s u : State} {f g : CCR}

/-! Flags -/

/-- An instruction that writes V writes N and Z with it (R34, R35). -/
theorem KeepsFlags.of_writesV (hv : j.writesV = true) (hhf : j.writesHf = false → g.hf = f.hf)
    (hi : j.writesI = false → g.i = f.i) (hc : j.writesC = false → g.c = f.c) : KeepsFlags j f g where
  v := by simp [hv]
  hf := hhf
  i := hi
  n := by simp [Instr.writesN, hv]
  z := by simp [Instr.writesZ, Instr.writesN, hv]
  c := hc

/-- V, N and Z (R140, R179, R186). -/
theorem KeepsFlags.vnz (hv : j.writesV = true) (hhf : g.hf = f.hf) (hi : g.i = f.i) (hc : g.c = f.c) :
    KeepsFlags j f g := .of_writesV hv (fun _ => hhf) (fun _ => hi) fun _ => hc

/-- V, N, Z and C (R171, R227). -/
theorem KeepsFlags.vnzc (hv : j.writesV = true) (hc : j.writesC = true) (hhf : g.hf = f.hf) (hi : g.i = f.i) :
    KeepsFlags j f g := .of_writesV hv (fun _ => hhf) (fun _ => hi) (by simp [hc])

/-- All but I (R170). -/
theorem KeepsFlags.arithmetic (hv : j.writesV = true) (hc : j.writesC = true) (hhf : j.writesHf = true)
    (hi : g.i = f.i) : KeepsFlags j f g := .of_writesV hv (by simp [hhf]) (fun _ => hi) (by simp [hc])

/-- All six (R152, R272). -/
theorem KeepsFlags.all (hv : j.writesV = true) (hc : j.writesC = true) (hhf : j.writesHf = true)
    (hi : j.writesI = true) : KeepsFlags j f g := .of_writesV hv (by simp [hhf]) (by simp [hi]) (by simp [hc])

/-- C alone (R206, R207, R263, R264). -/
theorem KeepsFlags.onlyC (hc : j.writesC = true) (b : Bool) : KeepsFlags j f { f with c := b } :=
  ⟨fun _ => rfl, fun _ => rfl, fun _ => rfl, fun _ => rfl, fun _ => rfl, by simp [hc]⟩

/-- I alone (R208, R209, R294, R295). -/
theorem KeepsFlags.onlyI (hi : j.writesI = true) (b : Bool) : KeepsFlags j f { f with i := b } :=
  ⟨fun _ => rfl, fun _ => rfl, by simp [hi], fun _ => rfl, fun _ => rfl, fun _ => rfl⟩

/-- Hf and C (R177). -/
theorem KeepsFlags.hfc (hhf : j.writesHf = true) (hc : j.writesC = true) (a b : Bool) :
    KeepsFlags j f { f with hf := a, c := b } :=
  ⟨fun _ => rfl, by simp [hhf], fun _ => rfl, fun _ => rfl, fun _ => rfl, by simp [hc]⟩

/-- Z and C (R178). -/
theorem KeepsFlags.zc (hz : j.writesZ = true) (hc : j.writesC = true) (a b : Bool) :
    KeepsFlags j f { f with c := a, z := b } :=
  ⟨fun _ => rfl, fun _ => rfl, fun _ => rfl, fun _ => rfl, by simp [hz], by simp [hc]⟩

/-! One part written -/

theorem Frame.refl (j : Instr) (s : State) : Frame j s s := fun p _ => by
  cases p with
  | memory => exact ⟨rfl, rfl, rfl⟩
  | _ => rfl

theorem Frame.with_a (h : Frame j s u) (ha : j.writesA = true) (w : Byte) : Frame j s { u with a := w } :=
  fun p hp => by
    cases p with
    | a => cases ha.symm.trans hp
    | _ => exact h _ hp

theorem Frame.with_x (h : Frame j s u) (hx : j.writesX = true) (w : Byte) : Frame j s { u with x := w } :=
  fun p hp => by
    cases p with
    | x => cases hx.symm.trans hp
    | _ => exact h _ hp

theorem Frame.with_h (h : Frame j s u) (hh : j.writesH = true) (w : Byte) : Frame j s { u with h := w } :=
  fun p hp => by
    cases p with
    | h => cases hh.symm.trans hp
    | _ => exact h _ hp

theorem Frame.with_sp (h : Frame j s u) (hsp : j.writesSP = true) (w : Word) : Frame j s { u with sp := w } :=
  fun p hp => by
    cases p with
    | sp => cases hsp.symm.trans hp
    | _ => exact h _ hp

theorem Frame.with_pc (h : Frame j s u) (hpc : j.writesPC = true) (w : Word) : Frame j s { u with pc := w } :=
  fun p hp => by
    cases p with
    | pc => cases hpc.symm.trans hp
    | _ => exact h _ hp

theorem Frame.with_power (h : Frame j s u) (hj : Part.power.writtenBy j = true) (w : Power) :
    Frame j s { u with power := w } :=
  fun p hp => by
    cases p with
    | power => cases hj.symm.trans hp
    | _ => exact h _ hp

theorem Frame.with_window (h : Frame j s u) (hj : Part.window.writtenBy j = true) (w : Bool) :
    Frame j s { u with cliWindow := w } :=
  fun p hp => by
    cases p with
    | window => cases hj.symm.trans hp
    | _ => exact h _ hp

theorem Frame.with_ccr (h : Frame j s u) (hf : KeepsFlags j s.ccr f) : Frame j s { u with ccr := f } :=
  fun p hp => by
    cases p with
    | v => exact hf.v hp
    | hf => exact hf.hf hp
    | i => exact hf.i hp
    | n => exact hf.n hp
    | z => exact hf.z hp
    | c => exact hf.c hp
    | _ => exact h _ hp

/-! The shared operations -/

theorem Frame.write (h : Frame j s u) (hm : j.writesMemory = true) (a : Word) (w : Byte) :
    Frame j s (u.write a w) := fun p hp => by
  cases p with
  | memory => cases hm.symm.trans hp
  | _ => simpa [Part.Same] using h _ hp

theorem Frame.write16 (h : Frame j s u) (hm : j.writesMemory = true) (a w : Word) : Frame j s (u.write16 a w) :=
  (h.write hm _ _).write hm _ _

theorem Frame.push (h : Frame j s u) (hm : j.writesMemory = true) (hsp : j.writesSP = true) (w : Byte) :
    Frame j s (u.push w) := (h.write hm _ _).with_sp hsp _

theorem Frame.pushPC (h : Frame j s u) (hm : j.writesMemory = true) (hsp : j.writesSP = true) :
    Frame j s u.pushPC := (h.push hm hsp _).push hm hsp _

theorem Frame.stack (h : Frame j s u) (hm : j.writesMemory = true) (hsp : j.writesSP = true) :
    Frame j s u.stack := (((h.pushPC hm hsp).push hm hsp _).push hm hsp _).push hm hsp _

theorem Frame.setHX (h : Frame j s u) (hh : j.writesH = true) (hx : j.writesX = true) (w : Word) :
    Frame j s (u.setHX w) := (h.with_h hh (hiByte w)).with_x hx (loByte w)

theorem Frame.branch (h : Frame j s u) (hpc : j.writesPC = true) (rr : Byte) (b : Bool) :
    Frame j s (u.branch rr b) := by
  cases b with
  | false => exact h
  | true => exact h.with_pc hpc _

/-- The read-modify-write shape on memory (R62). -/
theorem Frame.modify {flags : CCR → Byte → CCR} (hm : j.writesMemory = true)
    (hf : ∀ w, KeepsFlags j s.ccr (flags s.ccr w)) (m : MemOperand) (result : Byte → Byte) :
    Frame j s (s.modify m result flags) := ((Frame.refl j s).write hm _ _).with_ccr (hf _)

/-- The same shape on A. -/
theorem Frame.modifyA {flags : CCR → Byte → CCR} (ha : j.writesA = true)
    (hf : ∀ w, KeepsFlags j s.ccr (flags s.ccr w)) (result : Byte → Byte) :
    Frame j s (s.modifyA result flags) := ((Frame.refl j s).with_a ha _).with_ccr (hf _)

/-- The same shape on X. -/
theorem Frame.modifyX {flags : CCR → Byte → CCR} (hx : j.writesX = true)
    (hf : ∀ w, KeepsFlags j s.ccr (flags s.ccr w)) (result : Byte → Byte) :
    Frame j s (s.modifyX result flags) := ((Frame.refl j s).with_x hx (result s.x)).with_ccr (hf s.x)

/-! The instructions -/

/-- DIV writes A, H, Z and C, whether the quotient fits or not (R178). -/
theorem execDiv_frame (s : State) : ∃ t, execDiv s = .next t ∧ Frame .div s t := by
  have hframe (a h : Byte) (c z : Bool) :
      Frame .div s { s with a := a, h := h, ccr := { s.ccr with c := c, z := z } } :=
    (((Frame.refl _ s).with_a rfl a).with_h rfl h).with_ccr (.zc rfl rfl c z)
  unfold execDiv
  dsimp only
  split
  · exact ⟨_, rfl, hframe _ _ _ _⟩
  · exact ⟨_, rfl, hframe _ _ _ _⟩

/-- DAA writes A, V, N, Z and C, inside its table and outside (R290). -/
theorem execDaa_frame (s : State) : ∃ t, execDaa s = .next t ∧ Frame .daa s t := by
  unfold execDaa
  split
  · exact ⟨_, rfl, ((Frame.refl _ s).with_a rfl _).with_ccr (.vnzc rfl rfl rfl rfl)⟩
  · exact ⟨_, rfl, ((Frame.refl _ s).with_a rfl _).with_ccr (.vnzc rfl rfl rfl rfl)⟩

/-- CBEQ increments H:X in the forms IX+ and IX1+ alone (R265). -/
theorem execCbeq_frame (m : CmpOperand) (rr : Byte) (s : State) :
    ∃ t, execCbeq m rr s = .next t ∧ Frame (.cbeq m rr) s t := by
  cases m with
  | dir dd | sp1 ff => exact ⟨_, rfl, (Frame.refl _ s).branch rfl _ _⟩
  | ixInc | ix1Inc ff => exact ⟨_, rfl, ((Frame.refl _ s).setHX rfl rfl _).branch rfl _ _⟩

/-- MOV increments H:X in the X+ forms alone (R129 to R133). -/
theorem execMov_frame (m : Move) (s : State) : ∃ t, execMov m s = .next t ∧ Frame (.mov m) s t := by
  cases m with
  | dirDir src dst | immDir ii dst =>
    exact ⟨_, rfl, ((Frame.refl _ s).write rfl _ _).with_ccr (.vnz rfl rfl rfl rfl)⟩
  | dirIxInc src | ixIncDir dst =>
    exact ⟨_, rfl, (((Frame.refl _ s).write rfl _ _).setHX rfl rfl _).with_ccr (.vnz rfl rfl rfl rfl)⟩

/-- SWI writes I, SP, PC and memory (R271). -/
theorem execSwi_frame (s : State) : ∃ t, execSwi s = .next t ∧ Frame .swi s t := by
  have hflags : KeepsFlags .swi s.ccr { s.stack.ccr with i := true } := by
    rw [State.stack_ccr]
    exact .onlyI rfl true
  exact ⟨_, rfl, (((Frame.refl _ s).stack rfl rfl).with_ccr hflags).with_pc rfl _⟩

/-- Every instruction has a next state, in which only parts that list it differ. -/
theorem exec_frame (j : Instr) (s : State) : ∃ t, exec j s = .next t ∧ Frame j s t := by
  have h := Frame.refl j s
  cases j with
  | div => exact execDiv_frame s
  | daa => exact execDaa_frame s
  | cbeq m rr => exact execCbeq_frame m rr s
  | mov m => exact execMov_frame m s
  | swi => exact execSwi_frame s
  | nop => exact ⟨_, rfl, h⟩
  | neg m | com m | lsr m | ror m | asr m | lsl m | rol m =>
    exact ⟨_, rfl, .modify rfl (fun _ => .vnzc rfl rfl rfl rfl) _ _⟩
  | dec m | inc m => exact ⟨_, rfl, .modify rfl (fun _ => .vnz rfl rfl rfl rfl) _ _⟩
  | nega | coma | lsra | rora | asra | lsla | rola =>
    exact ⟨_, rfl, .modifyA rfl (fun _ => .vnzc rfl rfl rfl rfl) _⟩
  | deca | inca => exact ⟨_, rfl, .modifyA rfl (fun _ => .vnz rfl rfl rfl rfl) _⟩
  | negx | comx | lsrx | rorx | asrx | lslx | rolx =>
    exact ⟨_, rfl, .modifyX rfl (fun _ => .vnzc rfl rfl rfl rfl) _⟩
  | decx | incx => exact ⟨_, rfl, .modifyX rfl (fun _ => .vnz rfl rfl rfl rfl) _⟩
  | add src | adc src => exact ⟨_, rfl, (h.with_a rfl _).with_ccr (.arithmetic rfl rfl rfl rfl)⟩
  | sub src | sbc src => exact ⟨_, rfl, (h.with_a rfl _).with_ccr (.vnzc rfl rfl rfl rfl)⟩
  | cmp src | cpx src | cphx src => exact ⟨_, rfl, h.with_ccr (.vnzc rfl rfl rfl rfl)⟩
  | and src | ora src | eor src | lda src | clra =>
    exact ⟨_, rfl, (h.with_a rfl _).with_ccr (.vnz rfl rfl rfl rfl)⟩
  | ldx src => exact ⟨_, rfl, (h.with_x rfl (s.operand src)).with_ccr (.vnz rfl rfl rfl rfl)⟩
  | clrx => exact ⟨_, rfl, (h.with_x rfl 0x00#8).with_ccr (.vnz rfl rfl rfl rfl)⟩
  | clrh => exact ⟨_, rfl, (h.with_h rfl 0x00#8).with_ccr (.vnz rfl rfl rfl rfl)⟩
  | ldhx src => exact ⟨_, rfl, (h.setHX rfl rfl _).with_ccr (.vnz rfl rfl rfl rfl)⟩
  | bit src | tst m | tsta | tstx => exact ⟨_, rfl, h.with_ccr (.vnz rfl rfl rfl rfl)⟩
  | sta m | stx m | clr m => exact ⟨_, rfl, (h.write rfl _ _).with_ccr (.vnz rfl rfl rfl rfl)⟩
  | sthx dd => exact ⟨_, rfl, (h.write16 rfl _ _).with_ccr (.vnz rfl rfl rfl rfl)⟩
  | mul => exact ⟨_, rfl, ((h.with_x rfl _).with_a rfl _).with_ccr (.hfc rfl rfl _ _)⟩
  | bset n dd | bclr n dd => exact ⟨_, rfl, h.write rfl _ _⟩
  | brset n dd rr | brclr n dd rr => exact ⟨_, rfl, (h.with_ccr (.onlyC rfl _)).branch rfl _ _⟩
  | bra rr | brn rr | bhi rr | bls rr | bcc rr | bcs rr | bne rr | beq rr | bhcc rr | bhcs rr | bpl rr | bmi rr
  | bmc rr | bms rr | bil rr | bih rr | bge rr | blt rr | bgt rr | ble rr | cbeqa ii rr | cbeqx ii rr =>
    exact ⟨_, rfl, h.branch rfl _ _⟩
  | dbnz m rr => exact ⟨_, rfl, (h.write rfl _ _).branch rfl _ _⟩
  | dbnza rr => exact ⟨_, rfl, (h.with_a rfl _).branch rfl _ _⟩
  | dbnzx rr => exact ⟨_, rfl, (h.with_x rfl _).branch rfl _ _⟩
  | jmp m => exact ⟨_, rfl, h.with_pc rfl _⟩
  | jsr m => exact ⟨_, rfl, (h.pushPC rfl rfl).with_pc rfl _⟩
  | bsr rr => exact ⟨_, rfl, (h.pushPC rfl rfl).branch rfl _ _⟩
  | rts => exact ⟨_, rfl, (h.with_sp rfl (s.sp + 2)).with_pc rfl _⟩
  | rti =>
    have hflags : KeepsFlags .rti s.ccr (CCR.ofByte (s.read 0 (s.sp + 1))) := .all rfl rfl rfl rfl
    exact ⟨_, rfl, ((((h.with_ccr hflags).with_a rfl _).with_x rfl _).with_pc rfl _).with_sp rfl _⟩
  | psha | pshh | pshx => exact ⟨_, rfl, h.push rfl rfl _⟩
  | pula => exact ⟨_, rfl, (h.with_sp rfl _).with_a rfl _⟩
  | pulh => exact ⟨_, rfl, (h.with_sp rfl _).with_h rfl _⟩
  | pulx => exact ⟨_, rfl, (h.with_sp rfl _).with_x rfl _⟩
  | tpa | txa | nsa => exact ⟨_, rfl, h.with_a rfl _⟩
  | tax => exact ⟨_, rfl, h.with_x rfl _⟩
  | txs | rsp | ais ii => exact ⟨_, rfl, h.with_sp rfl _⟩
  | tsx | aix ii => exact ⟨_, rfl, h.setHX rfl rfl _⟩
  | clc | sec => exact ⟨_, rfl, h.with_ccr (.onlyC rfl _)⟩
  | sei => exact ⟨_, rfl, h.with_ccr (.onlyI rfl _)⟩
  | cli => exact ⟨_, rfl, (h.with_ccr (.onlyI rfl false)).with_window rfl _⟩
  | tap => exact ⟨_, rfl, (h.with_ccr (f := CCR.ofByte s.a) (.all rfl rfl rfl rfl)).with_window rfl _⟩
  | stop | wait => exact ⟨_, rfl, (h.with_ccr (.onlyI rfl false)).with_power rfl _⟩

/-- The frame of an instruction, at the state it gives. -/
theorem frame_of_exec {t : State} (h : exec j s = .next t) : Frame j s t := by
  obtain ⟨t', h', hframe⟩ := exec_frame j s
  cases h.symm.trans h'
  exact hframe

/-- An instruction that writes no flag leaves the whole CCR. -/
theorem Frame.ccr_eq {t : State} (h : Frame j s t) (hv : j.writesV = false) (hhf : j.writesHf = false)
    (hi : j.writesI = false) (hz : j.writesZ = false) (hc : j.writesC = false) : t.ccr = s.ccr := by
  have ev : t.ccr.v = s.ccr.v := h .v hv
  have ehf : t.ccr.hf = s.ccr.hf := h .hf hhf
  have ei : t.ccr.i = s.ccr.i := h .i hi
  have en : t.ccr.n = s.ccr.n := h .n hv
  have ez : t.ccr.z = s.ccr.z := h .z hz
  have ec : t.ccr.c = s.ccr.c := h .c hc
  cases ht : t.ccr
  simp_all

end Sys2Proof.Machine

namespace Sys2Proof

/-- R37's list agrees with the lists of the single flags (R31 to R36). -/
theorem Instr.writes_of_writesNoFlag {j : Instr} (h : j.writesNoFlag = true) :
    j.writesV = false ∧ j.writesHf = false ∧ j.writesI = false ∧ j.writesZ = false ∧ j.writesC = false := by
  cases j <;> cases h <;> exact ⟨rfl, rfl, rfl, rfl, rfl⟩

end Sys2Proof

namespace Sys2Proof.Machine

/-- Settles O26: each clause is the frame at one part. -/
theorem frameOfEveryInstruction : Obligations.FrameOfEveryInstruction := by
  intro j s t h
  have hframe := frame_of_exec h
  refine ⟨hframe .a, hframe .x, hframe .h, hframe .sp, hframe .pc, hframe .v, hframe .n, hframe .z, hframe .hf,
    hframe .i, hframe .c, hframe .memory, fun hstop hwait => hframe .power ?_, fun hcli htap => hframe .window ?_⟩
  · simp [Part.writtenBy, hstop, hwait]
  · simp [Part.writtenBy, hcli, htap]

/-- Settles O25: by the frame, flag by flag. -/
theorem writesNoFlag : Obligations.WritesNoFlag := by
  intro j s t hj h
  obtain ⟨hv, hhf, hi, hz, hc⟩ := Instr.writes_of_writesNoFlag hj
  exact (frame_of_exec h).ccr_eq hv hhf hi hz hc

end Sys2Proof.Machine
end

section
/-! The state family, part 2: the I flag over a step (R33, R327), the CCR as a byte (R30), and the ends of the stack
(R25). -/

namespace Sys2Proof

/-- Three instructions write I without being able to set it (R33). -/
theorem Instr.clearsI_cases {j : Instr} (hw : j.writesI = true) (hs : j.setsI = false) :
    j = .cli ∨ j = .wait ∨ j = .stop := by
  cases j <;> cases hw <;> cases hs
  case cli => exact .inl rfl
  case wait => exact .inr (.inl rfl)
  case stop => exact .inr (.inr rfl)

end Sys2Proof

namespace Sys2Proof.Machine

/-! The I flag -/

/-- An instruction that is not listed as setting I leaves it clear where it is clear (R33). -/
theorem exec_keeps_i_clear {j : Instr} {s t : State} (h : exec j s = .next t) (hs : j.setsI = false)
    (hi : s.ccr.i = false) : t.ccr.i = false := by
  cases hw : j.writesI with
  | false => exact (frame_of_exec h .i hw).trans hi
  | true =>
    obtain rfl | rfl | rfl := Instr.clearsI_cases hw hs
    all_goals
      cases h
      rfl

/-- The number of bytes decoded at the fetch is the length of the encoding (R13, R80). -/
theorem State.length_encode_of_fetch {s : State} {j : Instr} {rest : List Byte}
    (hd : decode s.fetchBytes = .ok (j, rest)) : 4 - rest.length = (encode j).length := by
  have := length_encode_of_decode hd
  rw [State.length_fetchBytes] at this
  omega

/-- Settles O13: of all that a step can do, idling keeps I, and an instruction that cannot set I does not. -/
theorem whatSetsI : Obligations.WhatSetsI := by
  intro s t h hs ht
  obtain hreset | ⟨-, q, hq, rfl⟩ | ⟨-, -, -, rfl⟩ | ⟨hr, hi, hp, j, rest, hd, hx⟩ := step_next_cases h
  · exact .inl hreset
  · exact .inr (.inl ⟨q, hq, rfl⟩)
  · rw [State.idle_ccr, State.arrive_ccr, hs] at ht
    cases ht
  · have hsets : j.setsI = true := by
      by_contra hn
      rw [exec_keeps_i_clear hx (Bool.eq_false_iff.2 hn) (by simpa using hs)] at ht
      cases ht
    refine .inr (.inr ⟨hr, hi, hp, j, rest, hd, hsets, ?_⟩)
    rw [State.length_encode_of_fetch hd] at hx
    simpa only [State.begin, State.arrive_pc, State.arrive_copCounter] using hx

/-! The CCR as a byte -/

/-- The CCR byte as a number (R30). -/
theorem CCR.toNat_toByte (f : CCR) :
    f.toByte.toNat = 128 * f.v.toNat + 64 + 32 + 16 * f.hf.toNat + 8 * f.i.toNat + 4 * f.n.toNat
      + 2 * f.z.toNat + f.c.toNat := by
  rcases f with ⟨v, hf, i, n, z, c⟩
  revert v hf i n z c
  decide

/-- The flags of a byte, from its number (R30). -/
theorem CCR.ofByte_eq (b : Byte) : CCR.ofByte b = {
    v := decide (b.toNat / 128 % 2 = 1), hf := decide (b.toNat / 16 % 2 = 1)
    i := decide (b.toNat / 8 % 2 = 1), n := decide (b.toNat / 4 % 2 = 1)
    z := decide (b.toNat / 2 % 2 = 1), c := decide (b.toNat % 2 = 1) } := by
  simp [CCR.ofByte, BitVec.getLsbD, Nat.testBit_eq_decide_div_mod_eq]

/-- Settles O31: TPA and TAP by the byte's number; TAP opens the window where bit 3 is clear and I was set. -/
theorem conditionCodeByte : Obligations.ConditionCodeByte := by
  intro s
  refine ⟨⟨_, rfl, rfl, s.ccr.toNat_toByte⟩, ?_⟩
  have hwindow : (s.ccr.i && !decide (s.a.toNat / 8 % 2 = 1))
      = decide (s.ccr.i = true ∧ s.a.toNat / 8 % 2 = 0) := by
    rw [Bool.eq_iff_iff]
    simp
  rw [← hwindow, ← CCR.ofByte_eq]
  change execTap s = _
  simp only [execTap, CCR.ofByte_eq]

/-! The ends of the stack -/

/-- Settles O22: one below $0000 is $FFFF, and one above $FFFF is $0000. -/
theorem stackPointerWraps : Obligations.StackPointerWraps := by
  refine ⟨fun s hs => ⟨s.push s.a, rfl, ?_, ?_, ?_⟩, fun s hs => ?_⟩
  · rw [State.push_sp, hs]
    rfl
  · rw [State.push_mem, hs]
  · rw [← hs]
    rfl
  · have hsp : s.sp + 1 = 0x0000#16 := by rw [hs]; rfl
    rw [← hsp]
    rfl

end Sys2Proof.Machine
end

section
/-! The state family, part 3: what a reset leaves (R41, R305, R309, R350), and the loaded image (R354, U8). -/

namespace Sys2Proof.Machine

/-- A read does not look at PC. -/
@[simp] theorem State.read_with_pc (s : State) (w : Word) (k : Nat) (a : Word) :
    State.read { s with pc := w } k a = s.read k a := State.read_congr rfl rfl a rfl k

/-- Nor does a read of two bytes. -/
@[simp] theorem State.read16_with_pc (s : State) (w : Word) (k : Nat) (a : Word) :
    State.read16 { s with pc := w } k a = s.read16 k a := by
  simp [State.read16]

/-! Reset -/

/-- A read of the Reset Status Register (R305). -/
theorem State.read_resetStatus {s : State} {a : Word} (h : s.plat.spaceAt a = .resetStatus) (k : Nat) :
    s.read k a = resetStatusRead s.draws k s.resetCause := by
  rw [State.read, h]

/-- PC comes from the reset vector, read after the actions of the reset (R350). -/
theorem State.doReset_pc (s : State) (c : ResetCause) :
    (s.doReset c).pc = join ((s.doReset c).read 0 0xFFFE#16) ((s.doReset c).read 1 0xFFFF#16) := by
  rw [State.doReset]
  simp only [State.read_with_pc]
  rfl

/-- A reset other than power-on keeps memory (R309). -/
theorem State.memAfterReset_eq {c : ResetCause} (h : c ≠ .powerOn) (s : State) : s.memAfterReset c = s.mem := by
  cases c with
  | powerOn => exact absurd rfl h
  | externalPin | cop | lvi | illegalAddress | illegalOpcode => rfl

/-- Settles O14: the register values by the actions of the reset, then the vector, the register that names the cause,
and memory. -/
theorem resetLeaves : Obligations.ResetLeaves := by
  intro s c
  refine ⟨rfl, rfl, rfl, rfl, rfl, rfl, rfl, rfl, ?_, fun hc => s.memAfterReset_eq hc, fun a k ha => ?_,
    fun a ha => s.memAfterReset_keeps c a (.inl ha)⟩
  · rw [State.doReset_pc, join_eq]
  · have hmap : (s.doReset c).plat.spaceAt a = .resetStatus := ha
    rw [State.read_resetStatus hmap, State.doReset_resetCause, namedCause_resetStatusRead]

/-- Settles O16: the memory after reset lists nothing, and the CPU runs. -/
theorem invAtReset : Obligations.InvAtReset := ⟨Memory.wf_reset, fun h => absurd rfl h⟩

/-! Images -/

/-- A vector is programmed where both its bytes are filled (R354). -/
theorem Image.programs_iff (i : Image) (p : Platform) (v : Word) :
    i.programs p v = true ↔ i.fills p v = true ∧ i.fills p (v + 1) = true := Bool.and_eq_true_iff

/-- An image is loaded exactly when it programs every vector it uses (R354, U8). -/
theorem State.exists_load_iff (s : State) (i : Image) :
    (∃ t, s.load i = .ok t) ↔ ∀ v ∈ i.vectors s.plat, i.programs s.plat v = true :=
  ⟨fun ⟨_, h⟩ => ((s.load_ok_iff _ i).1 h).1, fun h => ⟨_, (s.load_ok_iff _ i).2 ⟨h, rfl⟩⟩⟩

/-- Loading changes memory and PC alone (D14). -/
theorem State.eq_of_load {s t : State} {i : Image} (h : s.load i = .ok t) :
    t = { s with mem := t.mem, pc := t.read16 0 resetVector } := by
  obtain ⟨-, rfl⟩ := (s.load_ok_iff t i).1 h
  rw [State.read16_with_pc]
  rfl

/-- The memory of a loaded image: the image's cells, stored where the platform has memory. -/
theorem State.mem_of_load {s t : State} {i : Image} (h : s.load i = .ok t) : t.mem = (s.withImage i).mem := by
  obtain ⟨-, rfl⟩ := (s.load_ok_iff t i).1 h
  rfl

/-- Settles O15: the values at reset; then loading, by the vectors an image uses, the bytes it fills, and the cells it
stores. -/
theorem stateAfterReset : Obligations.StateAfterReset := by
  refine ⟨rfl, rfl, rfl, rfl, rfl, rfl, rfl, rfl, fun s i => ?_⟩
  intro uses filled
  have huses (v : Word) : v ∈ i.vectors s.plat ↔ uses v := i.mem_vectors s.plat v
  have hprograms (v : Word) : i.programs s.plat v = true ↔ filled v ∧ filled (v + 1) := by
    rw [Image.programs_iff, Image.fills_iff, Image.fills_iff]
  refine ⟨?_, fun v h => ?_, fun t h => ⟨State.eq_of_load h, fun hm => ?_⟩⟩
  · simp only [State.exists_load_iff, huses, hprograms]
  · obtain ⟨hv, hn⟩ := State.load_error h
    rw [← huses, ← hprograms, hn]
    exact ⟨hv, Bool.false_ne_true⟩
  · rw [State.mem_of_load h]
    refine ⟨s.wf_withImage i hm, fun n hn => Memory.read_writeAll_of_not_mem _ hn _, fun hd c hc a ha hmem => ?_⟩
    have hlt (n : Nat) (hn : s.plat.isMemory n = true) : n < 65536 := Platform.isMemory_lt hn
    have hcell : s.plat.isMemory c.1 = true := by rw [ha, Platform.isMemory_toNat, hmem]
    exact Memory.read_writeAll_of_mem hlt hd hc hcell hm

end Sys2Proof.Machine
end

section
/-! The memory family, part 1: what an instruction keeps of memory and the environment, and what follows for a
step (R54, R68, R71, R303). -/

namespace Sys2Proof.Machine

/-- Between `s` and `t` lie bus writes and updates of the CPU's registers alone, as far as the environment and
memory can tell: the environment's part stays, memory stays canonical, and only RAM changes (R54, R71). -/
structure BusKeeps (s t : State) : Prop where
  environment : t.environment = s.environment
  wf : s.mem.wf = true → t.mem.wf = true
  rom : ∀ a : Word, s.plat.spaceAt a ≠ .ram → t.mem.read a.toNat = s.mem.read a.toNat

variable {s t u : State}

theorem BusKeeps.refl (s : State) : BusKeeps s s := ⟨rfl, id, fun _ _ => rfl⟩

/-- The platform is part of the environment (log 5). -/
theorem BusKeeps.plat (h : BusKeeps s t) : t.plat = s.plat := congrArg Environment.plat h.environment

/-- An update of the CPU's registers changes nothing. -/
theorem BusKeeps.registers (h : BusKeeps s u) (he : t.environment = u.environment) (hm : t.mem = u.mem) :
    BusKeeps s t where
  environment := he.trans h.environment
  wf hs := by rw [hm, h.wf hs]
  rom a ha := by rw [hm, h.rom a ha]

theorem BusKeeps.write (h : BusKeeps s u) (a : Word) (v : Byte) : BusKeeps s (u.write a v) where
  environment := (u.writes_environment [(a, v)]).trans h.environment
  wf hs := u.wf_write a v (h.wf hs)
  rom b hb := (u.write_keeps_rom a v (by rwa [h.plat])).trans (h.rom b hb)

theorem BusKeeps.write16 (h : BusKeeps s u) (a v : Word) : BusKeeps s (u.write16 a v) :=
  (h.write a _).write (a + 1) _

theorem BusKeeps.push (h : BusKeeps s u) (v : Byte) : BusKeeps s (u.push v) :=
  (h.write u.sp v).registers rfl rfl

theorem BusKeeps.pushPC (h : BusKeeps s u) : BusKeeps s u.pushPC := (h.push _).push _

theorem BusKeeps.stack (h : BusKeeps s u) : BusKeeps s u.stack := ((h.pushPC.push _).push _).push _

theorem BusKeeps.branch (h : BusKeeps s u) (rr : Byte) (b : Bool) : BusKeeps s (u.branch rr b) :=
  h.registers (by simp [State.environment]) (u.branch_mem rr b)

theorem BusKeeps.postIncrement (h : BusKeeps s u) (m : CmpOperand) : BusKeeps s (u.postIncrement m) :=
  h.registers (by simp [State.environment]) (u.postIncrement_mem m)

theorem BusKeeps.moveIncrement (h : BusKeeps s u) (m : Move) : BusKeeps s (u.moveIncrement m) :=
  h.registers (by simp [State.environment]) (u.moveIncrement_mem m)

/-- DIV writes registers alone, whether the quotient fits or not (R178). -/
theorem execDiv_busKeeps (s : State) : ∃ t, execDiv s = .next t ∧ BusKeeps s t := by
  unfold execDiv
  dsimp only
  split
  · exact ⟨_, rfl, (BusKeeps.refl s).registers rfl rfl⟩
  · exact ⟨_, rfl, (BusKeeps.refl s).registers rfl rfl⟩

/-- DAA writes registers alone, inside its table and outside (R290). -/
theorem execDaa_busKeeps (s : State) : ∃ t, execDaa s = .next t ∧ BusKeeps s t := by
  unfold execDaa
  split
  · exact ⟨_, rfl, (BusKeeps.refl s).registers rfl rfl⟩
  · exact ⟨_, rfl, (BusKeeps.refl s).registers rfl rfl⟩

/-- Every instruction has a next state, reached by bus writes and register updates alone: the stores by what they
store with, the branches by their one operation, and all others by registers. -/
theorem exec_busKeeps (j : Instr) (s : State) : ∃ t, exec j s = .next t ∧ BusKeeps s t := by
  have h := BusKeeps.refl s
  cases j with
  | div => exact execDiv_busKeeps s
  | daa => exact execDaa_busKeeps s
  | neg m | com m | lsr m | ror m | asr m | lsl m | rol m | dec m | inc m | sta m | stx m | clr m =>
    exact ⟨_, rfl, (h.write _ _).registers rfl rfl⟩
  | bset n dd | bclr n dd => exact ⟨_, rfl, h.write _ _⟩
  | sthx dd => exact ⟨_, rfl, (h.write16 _ _).registers rfl rfl⟩
  | mov m => exact ⟨_, rfl, ((h.write _ _).moveIncrement m).registers rfl rfl⟩
  | psha | pshh | pshx => exact ⟨_, rfl, h.push _⟩
  | jsr m => exact ⟨_, rfl, h.pushPC.registers rfl rfl⟩
  | bsr rr => exact ⟨_, rfl, h.pushPC.branch _ _⟩
  | swi => exact ⟨_, rfl, h.stack.registers rfl rfl⟩
  | dbnz m rr => exact ⟨_, rfl, (h.write _ _).branch _ _⟩
  | cbeq m rr => exact ⟨_, rfl, (h.postIncrement m).branch _ _⟩
  | brset n dd rr | brclr n dd rr | dbnza rr | dbnzx rr =>
    refine ⟨_, rfl, .branch ?_ _ _⟩
    exact h.registers rfl rfl
  | bra rr | brn rr | bhi rr | bls rr | bcc rr | bcs rr | bne rr | beq rr | bhcc rr | bhcs rr | bpl rr | bmi rr
  | bmc rr | bms rr | bil rr | bih rr | bge rr | blt rr | bgt rr | ble rr | cbeqa ii rr | cbeqx ii rr =>
    exact ⟨_, rfl, h.branch _ _⟩
  | _ => exact ⟨_, rfl, h.registers rfl rfl⟩

/-- What an instruction keeps, at the state it gives. -/
theorem busKeeps_of_exec {j : Instr} (h : exec j s = .next t) : BusKeeps s t := by
  obtain ⟨t', h', hkeeps⟩ := exec_busKeeps j s
  cases h.symm.trans h'
  exact hkeeps

/-- Settles O24: every instruction has a next state that bus writes and register updates reach. -/
theorem everyInstructionCompletes : Obligations.EveryInstructionCompletes := by
  intro j s
  obtain ⟨t, ht, hkeeps⟩ := exec_busKeeps j s
  exact ⟨t, ht, hkeeps.environment, hkeeps.wf⟩

/-! The step -/

/-- Only STOP and WAIT halt a running CPU, and both clear I (R294, R295). -/
theorem exec_halts_with_i_clear {j : Instr} (h : exec j s = .next t) (hs : s.power = .running)
    (ht : t.power ≠ .running) : t.ccr.i = false := by
  cases hw : Part.power.writtenBy j with
  | false => exact absurd ((frame_of_exec h .power hw).trans hs) ht
  | true =>
    obtain rfl | rfl : j = .stop ∨ j = .wait := by simpa [Part.writtenBy] using hw
    all_goals
      cases h
      rfl

/-- Settles O17: a reset and an interrupt entry leave the CPU running, idling changes neither part, and an
instruction stores by bus writes and halts with I clear. -/
theorem stepKeepsInv : Obligations.StepKeepsInv := by
  intro s t ⟨hwf, hpower⟩ h
  have harrive : s.arrive.mem.wf = true := by rwa [State.arrive_mem]
  obtain ⟨c, rfl⟩ | ⟨-, q, -, rfl⟩ | ⟨-, -, -, rfl⟩ | ⟨-, -, hp, j, rest, -, hx⟩ := step_next_cases h
  · exact ⟨s.arrive.wf_memAfterReset c harrive, fun hn => absurd rfl hn⟩
  · exact ⟨s.arrive.wf_takeHardware q harrive, fun hn => absurd rfl hn⟩
  · exact ⟨by rwa [State.idle_mem], by simpa using hpower⟩
  · exact ⟨(busKeeps_of_exec hx).wf harrive, exec_halts_with_i_clear hx (by simpa using hp)⟩

/-- Settles O18: a reset keeps what is no RAM, an entry and an instruction store by bus writes, idling stores
nothing. -/
theorem romNeverChanges : Obligations.RomNeverChanges := by
  intro s t h
  rw [← s.arrive_plat, ← s.arrive_mem]
  obtain ⟨c, rfl⟩ | ⟨-, q, -, rfl⟩ | ⟨-, -, -, rfl⟩ | ⟨-, -, -, j, rest, -, hx⟩ := step_next_cases h
  · exact ⟨rfl, fun a ha => s.arrive.memAfterReset_keeps c a (.inl ha)⟩
  · exact ⟨s.arrive.takeHardware_plat q, (BusKeeps.refl s.arrive).stack.rom⟩
  · exact ⟨s.arrive.idle_plat, fun a _ => by rw [State.idle_mem]⟩
  · exact ⟨(busKeeps_of_exec hx).plat, (busKeeps_of_exec hx).rom⟩

/-- No instruction is refused (R303). -/
theorem exec_ne_refused (j : Instr) (s : State) (r : Refusal) : exec j s ≠ .refused r := by
  obtain ⟨t, ht, -⟩ := exec_busKeeps j s
  simp [ht]

/-- The fetch refuses exactly a first byte, legally fetched, that the instruction before stored to (R68). -/
theorem State.runInstr_refused_iff (s : State) (r : Refusal) :
    s.runInstr = .refused r ↔
      r = .storeToNextOpcode ∧ s.plat.illegalFetch s.pc = false ∧ s.pc ∈ s.stored := by
  rw [State.runInstr_eq]
  split
  · next hi => simp [hi]
  · next hi =>
    split
    · next hs => simp [hi, hs, eq_comm]
    · next hs =>
      split
      · simp [hs]
      · simp [hs, exec_ne_refused]

/-- A step is refused exactly where it comes to a fetch that is (R327). -/
theorem step_refused_iff (s : State) (r : Refusal) :
    step s = .refused r ↔ s.arrive.resetRequest = none ∧ s.arrive.interrupt = none ∧ s.power = .running ∧
      s.arrive.runInstr = .refused r := by
  rw [step_eq]
  cases s.arrive.resetRequest with
  | some c => simp
  | none =>
    cases s.arrive.interrupt with
    | some q => simp
    | none => cases s.power <;> simp

/-- Settles O11: the fetch alone refuses, and there is no fault. -/
theorem onlyRefusal : Obligations.OnlyRefusal := by
  intro s
  refine ⟨fun r => ?_, ?_⟩
  · rw [step_refused_iff, State.runInstr_refused_iff, State.arrive_plat, State.arrive_pc, State.arrive_stored]
    tauto
  · cases h : step s with
    | next t => exact .inr ⟨t, rfl⟩
    | fault f => cases f
    | refused r => exact .inl ⟨r, rfl⟩

end Sys2Proof.Machine
end

section
/-! The memory family, part 2: the bus, as it writes and as it reads (R52, R54, R59, R65, R71, R318, R335,
R337, R339). -/

namespace Sys2Proof.Machine

/-! Writes -/

/-- Memory and the devices after a bus write are as it leaves them where it lands. -/
theorem State.write_of_deliver {s u : State} {a : Word} {v : Byte} (h : s.deliver a v = u) :
    (s.write a v).mem = u.mem ∧ (s.write a v).devices = u.devices := by
  subst h
  exact ⟨rfl, rfl⟩

/-- A store to RAM touches no device. -/
theorem State.write_devices_of_ramAt {s : State} {a : Word} (h : s.ramAt a = true) (v : Byte) :
    (s.write a v).devices = s.devices := by
  rw [State.ramAt_eq, decide_eq_true_eq] at h
  obtain ⟨hne, hram⟩ := h
  have hd : s.deliver a v = { s with mem := s.mem.write a.toNat v } := by
    rw [State.deliver, if_neg hne, hram]
  exact (State.write_of_deliver hd).2

/-- A write of $01 to CONFIG1 disables the COP (R335). -/
theorem copAfterConfig1_one : copAfterConfig1 0x01#8 = false := rfl

/-- Settles O19: the CPU, the environment and the other bytes by the laws of the bus, the record space by space, and
at the address what each case of deliver says. -/
theorem busWrite : Obligations.BusWrite := by
  intro s a v hm
  refine ⟨s.writes_cpu [(a, v)], s.writes_environment [(a, v)], ?_,
    fun n hn => s.read_mem_write_ne a v hn, ?_⟩
  · rw [State.write_stored, State.recorded]
    cases s.plat.spaceAt a <;> rfl
  obtain ⟨ha, hd⟩ | ⟨ha, hcases⟩ := s.deliver_cases a v
  · rw [if_pos (show a = 0xFFFF#16 from ha)]
    exact State.write_of_deliver hd
  · rw [if_neg (show a ≠ 0xFFFF#16 from ha)]
    obtain ⟨hs, hd⟩ | ⟨hs, hd⟩ | ⟨p, hs, hd⟩ | ⟨p, hs, hd⟩ | ⟨hs, hd⟩ | ⟨hs, hd⟩ | ⟨hs, hd⟩ | ⟨hs, hd⟩ := hcases
    all_goals obtain ⟨hmem, hdev⟩ := State.write_of_deliver hd
    · -- RAM
      rw [hs, hmem]
      exact ⟨Memory.read_write_eq hm a.toNat v, hdev⟩
    · -- ROM, the monitor ROM and a hole
      obtain hs | hs | hs := hs <;> rw [hs] <;> exact ⟨hmem, hdev⟩
    · -- a port's latch
      rw [hs]
      cases p with
      | a | b => exact ⟨hmem, hdev⟩
    · -- a port's direction
      rw [hs]
      cases p with
      | a | b => exact ⟨hmem, hdev⟩
    · -- CONFIG1
      have hcop : (s.write a v).copEnabled = copAfterConfig1 v := congrArg Devices.copEnabled hdev
      rw [hs, hcop]
      exact ⟨hmem, fun hv => by rw [hv, copAfterConfig1_one], hdev⟩
    · -- CONFIG2
      rw [hs]
      exact ⟨hmem, hdev⟩
    · -- the Reset Status Register
      rw [hs]
      exact ⟨hmem, hdev⟩
    · -- any other I/O register
      have henable : (s.write a v).enable = s.enable.afterWrite s.plat a v := congrArg Devices.enable hdev
      rw [hs, henable]
      exact ⟨hmem, hdev, fun q hq => s.enable.get_afterWrite_of_not_mem s.plat a v hq,
        fun e he hea hu => s.enable.get_afterWrite s.plat a v he hea hu⟩

/-! Reads -/

/-- A read that RAM answers gives the byte written last, and any other is answered as before (R65). -/
theorem State.read_write_of_ramAt {s : State} {a : Word} (hm : s.mem.wf = true) (ha : s.ramAt a = true)
    (b : Word) (v : Byte) (k : Nat) : (s.write a v).read k b = if b = a then v else s.read k b := by
  split
  · next h =>
    subst h
    exact s.read_writes [(b, v)] hm (by simp) (by simp) ha k
  · next h =>
    exact State.read_congr (s.writes_environment [(a, v)]) (State.write_devices_of_ramAt ha v) b
      (s.read_mem_write_ne a v fun e => h (BitVec.eq_of_toNat_eq e)) k

/-- A bit of a port read, by the direction of its pin (R339). -/
theorem State.getLsbD_portByte (s : State) (k : Nat) (p : Port) {n : Nat} (hn : n < 8) :
    (s.portByte k p).getLsbD n =
      if (s.direction p).getLsbD n then (s.latch p).getLsbD n else (s.inputs.levels k p).getLsbD n := by
  rw [State.portByte, BitVec.getLsbD_or, BitVec.getLsbD_and, BitVec.getLsbD_and, BitVec.getLsbD_not]
  cases (s.direction p).getLsbD n <;> simp [hn]

/-- Inputs that show two reads of a port any two bytes (U11, D4). -/
def Inputs.twoReads (e : Inputs) (p : Port) (j k : Nat) (u v : Byte) : Inputs :=
  { e with pinReads := [⟨j, p, u⟩, ⟨k, p, v⟩] }

theorem Inputs.levels_twoReads_fst (e : Inputs) (p : Port) (j k : Nat) (u v : Byte) :
    (e.twoReads p j k u v).levels j p = u := e.levels_head ⟨j, p, u⟩ [⟨k, p, v⟩]

theorem Inputs.levels_twoReads_snd (e : Inputs) (p : Port) {j k : Nat} (h : j ≠ k) (u v : Byte) :
    (e.twoReads p j k u v).levels k p = v :=
  (e.levels_tail ⟨j, p, u⟩ [⟨k, p, v⟩] fun hk => h hk.1).trans (e.levels_head ⟨k, p, v⟩ [])

/-- Settles O20: RAM by the store before, a port bit by its direction, and any two levels by listed reads. -/
theorem busReads : Obligations.BusReads := by
  refine ⟨fun s a b v k hm ha => State.read_write_of_ramAt hm ha b v k,
    fun s a k n hn => ⟨fun h => ?_, fun h => ?_⟩, fun s p j k u v hjk => ?_⟩
  · rw [s.read_port k a .a h]
    exact s.getLsbD_portByte k .a hn
  · rw [s.read_port k a .b h]
    exact s.getLsbD_portByte k .b hn
  · exact ⟨s.inputs.twoReads p j k u v, s.inputs.levels_twoReads_fst p j k u v,
      s.inputs.levels_twoReads_snd p hjk u v, rfl, rfl, rfl⟩

/-! Mixed widths -/

/-- LDA from an address below $0100 loads the byte read there (R140). -/
theorem exec_lda_dir (dd : Byte) (s : State) :
    ∃ t, exec (.lda (.mem (.dir dd))) s = .next t ∧ t.a = s.read 0 (zext16 dd) := ⟨_, rfl, rfl⟩

/-- After STHX a read at the address gives H, and a read at the next one X, where both are RAM (R55, R145). -/
theorem exec_sthx_reads {s : State} {dd : Byte} (hm : s.mem.wf = true) (h0 : s.ramAt (zext16 dd) = true)
    (h1 : s.ramAt (zext16 dd + 1) = true) :
    ∃ t, exec (.sthx dd) s = .next t ∧ ∀ k,
      t.read k (zext16 dd) = hiByte s.hx ∧ t.read k (zext16 dd + 1) = loByte s.hx := by
  have hd : ([(zext16 dd, hiByte s.hx), (zext16 dd + 1, loByte s.hx)].map (·.1)).Nodup := by
    simp
  refine ⟨_, rfl, fun k => ⟨?_, ?_⟩⟩
  · exact s.read_writes _ hm hd (by simp) h0 k
  · exact s.read_writes _ hm hd (by simp) h1 k

/-- After the push of a return address its low byte stands at SP and its high byte below (R57, R268). -/
theorem State.read_pushPC {s : State} (hm : s.mem.wf = true) (h0 : s.ramAt s.sp = true)
    (h1 : s.ramAt (s.sp - 1) = true) (k : Nat) :
    s.pushPC.read k s.sp = loByte s.pc ∧ s.pushPC.read k (s.sp - 1) = hiByte s.pc := by
  have hd : ([(s.sp, loByte s.pc), (s.sp - 1, hiByte s.pc)].map (·.1)).Nodup := by
    have hne : s.sp ≠ s.sp - 1 := by bv_omega
    simpa using hne
  rw [State.pushPC_eq]
  exact ⟨s.read_writes _ hm hd (by simp) h0 k, s.read_writes _ hm hd (by simp) h1 k⟩

/-- Settles O21: STHX then two loads, and the push of a return address, by the bytes they leave. -/
theorem mixedWidth : Obligations.MixedWidth := by
  refine ⟨fun s hm h50 h51 hhx => ?_, fun s hm hff hfe hsp hpc k => ?_⟩
  · obtain ⟨t, ht, hreads⟩ := exec_sthx_reads (dd := 0x50#8) hm h50 h51
    obtain ⟨hhi, hlo⟩ := hreads 0
    rw [hhx] at hhi hlo
    obtain ⟨u, hu, hua⟩ := exec_lda_dir 0x50#8 t
    obtain ⟨w, hw, hwa⟩ := exec_lda_dir 0x51#8 t
    exact ⟨t, ht, ⟨u, hu, hua.trans hhi⟩, ⟨w, hw, hwa.trans hlo⟩⟩
  · have hreads := State.read_pushPC hm (hsp ▸ hff) (hsp ▸ hfe) k
    rw [hsp, hpc] at hreads
    exact hreads

end Sys2Proof.Machine
end

section
/-! The encoding family (R81 to R93): decoding after encoding by the forms of an instruction, encoding after decoding
by the cells of the opcode map, and the bytes that select no cell. -/

namespace Sys2Proof

open Sys2Proof.Machine (join hiByte loByte join_hiByte_loByte)

/-! Decoding an encoding -/

/-- A word operand is the two bytes it is encoded in, the high byte first (R84). -/
theorem decode_word {bs rest : List Byte} {f : Word → Instr} (w : Word)
    (h : decode bs = .ok (f (join (hiByte w) (loByte w)), rest)) : decode bs = .ok (f w, rest) := by
  rwa [join_hiByte_loByte] at h

/-- What holds of the eight bit numbers holds of all (R87). -/
theorem forall_bitNumber {p : BitVec 3 → Prop} (h0 : p 0) (h1 : p 1) (h2 : p 2) (h3 : p 3) (h4 : p 4) (h5 : p 5)
    (h6 : p 6) (h7 : p 7) (n : BitVec 3) : p n := by
  obtain ⟨⟨k, hk⟩⟩ := n
  interval_cases k
  exacts [h0, h1, h2, h3, h4, h5, h6, h7]

/-- Decoding gives a well-formed instruction back, form by form: the bit numbers, the memory operands a row has (R90,
R91), the words, and the instructions whose operands are bytes. -/
theorem decode_encode {i : Instr} (rest : List Byte) (h : i.wellFormed = true) :
    decode (encode i ++ rest) = .ok (i, rest) := by
  cases i with
  | brset n dd rr | brclr n dd rr | bset n dd | bclr n dd =>
    induction n using forall_bitNumber <;> rfl
  | neg m | com m | lsr m | ror m | asr m | lsl m | rol m | dec m | inc m | tst m | clr m | dbnz m rr =>
    cases m with
    | dir dd | ix | ix1 ff | sp1 ff => rfl
    | ext w | ix2 w | sp2 w => cases h
  | jmp m | jsr m =>
    cases m with
    | dir dd | ix | ix1 ff => rfl
    | ext w | ix2 w =>
      apply decode_word w
      rfl
    | sp1 ff | sp2 w => cases h
  | sta m | stx m =>
    cases m with
    | dir dd | ix | ix1 ff | sp1 ff => rfl
    | ext w | ix2 w | sp2 w =>
      apply decode_word w
      rfl
  | sub src | cmp src | sbc src | cpx src | and src | bit src | lda src | eor src | adc src | ora src | add src
  | ldx src =>
    cases src with
    | imm ii => rfl
    | mem m =>
      cases m with
      | dir dd | ix | ix1 ff | sp1 ff => rfl
      | ext w | ix2 w | sp2 w =>
        apply decode_word w
        rfl
  | ldhx src | cphx src =>
    cases src with
    | imm w =>
      apply decode_word w
      rfl
    | dir dd => rfl
  | cbeq m rr =>
    cases m with
    | dir dd | sp1 ff | ixInc | ix1Inc ff => rfl
  | mov m =>
    cases m with
    | dirDir src dst | dirIxInc src | immDir ii dst | ixIncDir dst => rfl
  | _ => rfl

/-! Encoding what was decoded -/

/-- Every instruction the cell stands for is well-formed and is encoded in the opcode bytes given, followed by the
operand bytes the cell reads, in their order (R83, R84). -/
def OpcodeCell.Encodes (opcode : List Byte) : OpcodeCell → Prop
  | .illegal => True
  | .op0 i => i.wellFormed = true ∧ encode i = opcode
  | .op1 f => ∀ b, (f b).wellFormed = true ∧ encode (f b) = opcode ++ [b]
  | .op2 f => ∀ b c, (f b c).wellFormed = true ∧ encode (f b c) = opcode ++ [b, c]

@[simp] theorem OpcodeCell.encodes_illegal (opcode : List Byte) : OpcodeCell.illegal.Encodes opcode := trivial

@[simp] theorem OpcodeCell.encodes_op0 (opcode : List Byte) (i : Instr) :
    (OpcodeCell.op0 i).Encodes opcode ↔ i.wellFormed = true ∧ encode i = opcode := Iff.rfl

@[simp] theorem OpcodeCell.encodes_op1 (opcode : List Byte) (f : Byte → Instr) :
    (OpcodeCell.op1 f).Encodes opcode ↔ ∀ b, (f b).wellFormed = true ∧ encode (f b) = opcode ++ [b] := Iff.rfl

@[simp] theorem OpcodeCell.encodes_op2 (opcode : List Byte) (f : Byte → Byte → Instr) :
    (OpcodeCell.op2 f).Encodes opcode ↔
      ∀ b c, (f b c).wellFormed = true ∧ encode (f b c) = opcode ++ [b, c] := Iff.rfl

/-- What such a cell reads is the encoding of the instruction it gives, opcode bytes apart. -/
theorem OpcodeCell.encode_of_read {opcode : List Byte} {cell : OpcodeCell} (hc : cell.Encodes opcode)
    {bs rest : List Byte} {err : DecodeError} {i : Instr} (h : cell.read bs err = .ok (i, rest)) :
    i.wellFormed = true ∧ encode i ++ rest = opcode ++ bs := by
  cases cell with
  | illegal => cases h
  | op0 j =>
    cases h
    obtain ⟨hw, he⟩ := hc
    exact ⟨hw, by rw [he]⟩
  | op1 f =>
    match bs, h with
    | b :: bs, h =>
      cases h
      obtain ⟨hw, he⟩ := hc b
      exact ⟨hw, by rw [he, List.append_assoc, List.singleton_append]⟩
  | op2 f =>
    match bs, h with
    | b :: c :: bs, h =>
      cases h
      obtain ⟨hw, he⟩ := hc b c
      exact ⟨hw, by rw [he, List.append_assoc]; rfl⟩

/-- On the page, the cell at each column and row encodes the bytes `pre` and the opcode byte of that place (R89). -/
def PageEncodes (pre : List Byte) (page : List (List OpcodeCell)) : Prop :=
  ∀ column ∈ page.zipIdx, ∀ cell ∈ column.1.zipIdx,
    cell.1.Encodes (pre ++ [BitVec.ofNat 8 (16 * column.2 + cell.2)])

/-- An opcode byte is its column and its row (R89). -/
theorem byte_of_column_row (op : Byte) : BitVec.ofNat 8 (16 * (op.toNat / 16) + op.toNat % 16) = op := by
  rw [Nat.div_add_mod, BitVec.ofNat_toNat, BitVec.setWidth_eq]

/-- On such a page the cell an opcode byte selects encodes that byte. -/
theorem cellAt_encodes {pre : List Byte} {page : List (List OpcodeCell)} (h : PageEncodes pre page)
    (op : Byte) : (cellAt page op).Encodes (pre ++ [op]) := by
  rw [cellAt, List.getD_eq_getElem?_getD, List.getD_eq_getElem?_getD]
  cases hcol : page[op.toNat / 16]? with
  | none => simp
  | some column =>
    rw [Option.getD_some]
    cases hcell : column[op.toNat % 16]? with
    | none => simp
    | some cell =>
      have hplace := h (column, op.toNat / 16) (List.mem_zipIdx_iff_getElem?.2 hcol)
        (cell, op.toNat % 16) (List.mem_zipIdx_iff_getElem?.2 hcell)
      rwa [byte_of_column_row] at hplace

/-- The main page, cell by cell (R90). -/
theorem mainPage_encodes : PageEncodes [] mainPage := by
  simp only [PageEncodes, mainPage, bitBranchColumn, bitChangeColumn, branchColumn, rmwColumn, accumulatorColumn,
    indexColumn, controlColumn, registerColumn, aluColumn, List.zipIdx_cons, List.zipIdx_nil, List.forall_mem_cons]
  simp [Instr.wellFormed, MemOperand.isRmw, MemOperand.isJump, encode, encodeBitOpcode, encodeRmw, encodeAlu,
    encodeAluMem, encodeJump]

/-- The pre-byte page, cell by cell (R88, R91). -/
theorem preBytePage_encodes : PageEncodes [preByte] preBytePage := by
  simp only [PageEncodes, preBytePage, emptyColumn, List.replicate, rmwColumn, aluColumn, List.zipIdx_cons,
    List.zipIdx_nil, List.forall_mem_cons]
  simp [Instr.wellFormed, MemOperand.isRmw, encode, encodeRmw, encodeAlu, encodeAluMem]

/-! Illegal opcodes -/

/-- The cell holds no instruction (R93). -/
def OpcodeCell.isIllegal : OpcodeCell → Bool
  | .illegal => true
  | .op0 _ | .op1 _ | .op2 _ => false

/-- With two bytes there to read, a cell fails exactly where it holds no instruction. -/
theorem OpcodeCell.exists_read_error_iff (cell : OpcodeCell) (b c : Byte) (bs : List Byte) (err : DecodeError) :
    (∃ e, cell.read (b :: c :: bs) err = .error e) ↔ cell.isIllegal = true := by
  cases cell <;> simp [OpcodeCell.read, OpcodeCell.isIllegal]

/-- The main page: R93's six bytes, and the pre-byte's own cell (R88, R93). -/
theorem mainPage_isIllegal_iff : ∀ op : Byte, (cellAt mainPage op).isIllegal = true ↔
    op ∈ [0x32#8, 0x3E#8, 0x82#8, 0x8D#8, 0x96#8, 0xAC#8] ∨ op = preByte := by
  decide +kernel

/-- The pre-byte page: all but the forms on SP (R91, R93). -/
theorem preBytePage_isIllegal_iff : ∀ op : Byte, (cellAt preBytePage op).isIllegal = true ↔
    ¬(op = 0x60#8 ∨ op = 0x61#8 ∨ op = 0x63#8 ∨ op = 0x64#8 ∨ (0x66#8 ≤ op ∧ op ≤ 0x6D#8) ∨ op = 0x6F#8 ∨
      (0xD0#8 ≤ op ∧ op ≤ 0xDB#8) ∨ op = 0xDE#8 ∨ op = 0xDF#8 ∨ (0xE0#8 ≤ op ∧ op ≤ 0xEB#8) ∨ op = 0xEE#8 ∨
      op = 0xEF#8) := by
  decide +kernel

end Sys2Proof

namespace Sys2Proof.Machine

/-- Settles O1: by the forms of each instruction. -/
theorem decodeEncode : Obligations.DecodeEncode := fun _ rest h => decode_encode rest h

/-- Settles O2: the page the first byte selects, and on it the cell the opcode byte selects. -/
theorem encodeDecode : Obligations.EncodeDecode := by
  intro bs i rest h
  match bs with
  | [] => cases h
  | op :: bs =>
    by_cases hp : op = preByte
    · subst hp
      match bs with
      | [] => cases h
      | op2 :: bs =>
        rw [decode_preByte_cons] at h
        exact OpcodeCell.encode_of_read (cellAt_encodes preBytePage_encodes op2) h
    · rw [decode_cons_of_ne hp] at h
      exact OpcodeCell.encode_of_read (cellAt_encodes mainPage_encodes op) h

/-- Settles O3: each of the words is the encoding of its instruction. -/
theorem specWordsDecode : Obligations.SpecWordsDecode :=
  ⟨decodeEncode (.lda (.imm 0x80#8)) [] rfl, decodeEncode (.lda (.mem (.ext 0xE365#16))) [] rfl,
    decodeEncode (.lda (.mem (.ix2 0xE377#16))) [] rfl, decodeEncode (.sta (.sp1 0x05#8)) [] rfl,
    decodeEncode (.cbeq .ixInc 0x02#8) [] rfl, decodeEncode (.mov (.immDir 0x01#8 0x1F#8)) [] rfl,
    decodeEncode (.bclr 4#3 0x00#8) [] rfl, decodeEncode (.brclr 3#3 0x01#8 0xFD#8) [] rfl,
    decodeEncode (.bra 0xE2#8) [] rfl⟩

/-- Four bytes are no instruction exactly where the first selects no cell, or the second after the pre-byte. -/
theorem exists_decode_error_iff (b0 b1 b2 b3 : Byte) : (∃ e, decode [b0, b1, b2, b3] = .error e) ↔
    (b0 ≠ preByte ∧ (cellAt mainPage b0).isIllegal = true) ∨
      b0 = preByte ∧ (cellAt preBytePage b1).isIllegal = true := by
  by_cases hp : b0 = preByte
  · subst hp
    rw [decode_preByte_cons, OpcodeCell.exists_read_error_iff]
    simp
  · rw [decode_cons_of_ne hp, OpcodeCell.exists_read_error_iff]
    simp [hp]

/-- A legal fetch of bytes that decode to nothing, not stored to by the instruction before, resets (R93, R308). -/
theorem State.runInstr_of_decode_error {s : State} {e : DecodeError} (hl : s.plat.illegalFetch s.pc = false)
    (hs : s.pc ∉ s.stored) (hd : decode s.fetchBytes = .error e) :
    s.runInstr = .next (s.doReset .illegalOpcode) := by
  rw [State.runInstr_eq, hl, if_neg Bool.false_ne_true, if_neg hs, hd]

/-- Settles O4: the two pages' cells without an instruction, their number, and the step. -/
theorem illegalOpcodes : Obligations.IllegalOpcodes := by
  refine ⟨fun b0 b1 b2 b3 => ?_, by decide +kernel, fun s hr hi hp hl hs ⟨e, hd⟩ => ?_⟩
  · rw [exists_decode_error_iff, mainPage_isIllegal_iff, preBytePage_isIllegal_iff]
    refine or_congr_left ⟨fun ⟨hne, h⟩ => h.resolve_right hne, fun h => ⟨?_, .inl h⟩⟩
    rintro rfl
    exact absurd h (by decide)
  · rw [step_eq_runInstr hr hi hp, State.runInstr_of_decode_error (by simpa using hl) (by simpa using hs) hd]

end Sys2Proof.Machine
end

section
/-! The addressing family, part 1: effective addresses and the operands they name (R111 to R123, R134). -/

namespace Sys2Proof.Machine

/-- A word plus an unsigned byte offset, as a number (R111). -/
theorem toNat_add_zext16 (w : Word) (b : Byte) : (w + zext16 b).toNat = (w.toNat + b.toNat) % 65536 := by
  rw [BitVec.toNat_add, toNat_zext16]

/-- The address after a direct one, which may leave the direct page (R117). -/
theorem zext16_add_one (b : Byte) : zext16 b + 1 = BitVec.ofNat 16 (b.toNat + 1) := by
  rw [← add_one_word, toNat_zext16]

/-- Two bytes read as one number, the high byte at the lower address (R53, R57). -/
theorem State.toNat_read16 (s : State) (k : Nat) (a : Word) :
    (s.read16 k a).toNat = 256 * (s.read k a).toNat + (s.read (k + 1) (a + 1)).toNat := toNat_join _ _

/-- A word added to H:X, as a number (R119 to R121). -/
theorem State.toNat_hx_add (s : State) (w : Word) :
    (s.hx + w).toNat = (256 * s.h.toNat + s.x.toNat + w.toNat) % 65536 := by
  rw [BitVec.toNat_add, s.toNat_hx]

/-- An unsigned byte offset from H:X, as a number (R120, R125). -/
theorem State.toNat_hx_add_zext16 (s : State) (b : Byte) :
    (s.hx + zext16 b).toNat = (256 * s.h.toNat + s.x.toNat + b.toNat) % 65536 := by
  rw [s.toNat_hx_add, toNat_zext16]

/-- Settles O23: each form by its sum, CBEQ's forms by the same sums, and the word operand by its two bytes. -/
theorem effectiveAddresses : Obligations.EffectiveAddresses := by
  intro s
  refine ⟨toNat_zext16, fun _ => rfl, s.toNat_hx, s.toNat_hx_add_zext16, s.toNat_hx_add,
    toNat_add_zext16 s.sp, BitVec.toNat_add s.sp, toNat_zext16, toNat_add_zext16 s.sp, s.toNat_hx,
    s.toNat_hx_add_zext16, fun _ => rfl, fun _ => rfl, fun _ => rfl, fun dd => ?_⟩
  rw [← zext16_add_one, ← zext16_eq]
  exact s.toNat_read16 0 (zext16 dd)

end Sys2Proof.Machine
end

section
/-! The addressing family, part 2: MOV (R129 to R133, R158). -/

namespace Sys2Proof.Machine

/-- A bus write leaves H:X (R11). -/
@[simp] theorem State.hx_write (s : State) (a : Word) (v : Byte) : (s.write a v).hx = s.hx := by
  simp [State.hx]

/-- The post-increment of MOV sees nothing of a bus write before it (R158). -/
theorem State.moveIncrement_write_cpu (s : State) (a : Word) (v : Byte) (m : Move) :
    ((s.write a v).moveIncrement m).cpu = (s.moveIncrement m).cpu := by
  cases m with
  | dirDir src dst | immDir ii dst => exact s.writes_cpu [(a, v)]
  | dirIxInc src | ixIncDir dst => simp [State.moveIncrement, State.cpu]

/-- Every form of MOV: one store of the source byte at the destination, the post-increment of the form, and the flags
of the byte moved (R129, R158). -/
theorem exec_mov_stores (m : Move) {s : State} (hm : s.mem.wf = true) :
    ∃ t, exec (.mov m) s = .next t ∧ s.StoresExactly t [(s.moveEa m, s.moveByte m)] ∧
      t.cpu = { (s.moveIncrement m).cpu with ccr := s.ccr.move8 (s.moveByte m) } := by
  refine ⟨_, rfl, (s.storesExactly_write _ _ hm).of_eq ?_ ?_ ?_ ?_, ?_⟩
  · simp [State.environment]
  · simp [State.devices]
  · exact State.moveIncrement_stored _ _
  · exact State.moveIncrement_mem _ _
  · exact congrArg (fun c : Cpu => { c with ccr := s.ccr.move8 (s.moveByte m) })
      (s.moveIncrement_write_cpu (s.moveEa m) (s.moveByte m) m)

/-- Settles O32: each form is the general MOV at its source, its destination and its post-increment. -/
theorem moves : Obligations.Moves := by
  intro s hm
  simp only [← zext16_eq, ← State.hx_eq, ← CCR.move8_eq]
  refine ⟨fun ii dst => exec_mov_stores (.immDir ii dst) hm, fun src dst => exec_mov_stores (.dirDir src dst) hm,
    fun src => ?_, fun dst => ?_⟩
  · have hmov := exec_mov_stores (.dirIxInc src) hm
    rwa [State.moveIncrement, State.setHX_hx_add_one] at hmov
  · have hmov := exec_mov_stores (.ixIncDir dst) hm
    rwa [State.moveIncrement, State.setHX_hx_add_one] at hmov

end Sys2Proof.Machine
end

section
/-! The addressing family, part 3: relative branches (R126, R240 to R264), JMP, JSR, BSR and RTS (R267 to R270). -/

namespace Sys2Proof.Machine

/-! Conditions -/

/-- Neither of two flags is set: BHI, on C and Z (R247). -/
theorem not_or_eq_decide (b c : Bool) : (!(b || c)) = decide (b = false ∧ c = false) := by
  cases b <;> simp

/-- One of two flags is set: BLS, on C and Z (R250). -/
theorem or_eq_decide (b c : Bool) : (b || c) = decide (b = true ∨ c = true) := by
  simp

/-- Two flags differ: BLT, on N and V (R260). -/
theorem xor_eq_decide (b c : Bool) : (b ^^ c) = decide (b ≠ c) := by
  cases b <;> cases c <;> rfl

/-- Two flags are equal: BGE, on N and V (R257). -/
theorem not_xor_eq_decide (b c : Bool) : (!(b ^^ c)) = decide (b = c) := by
  cases b <;> cases c <;> rfl

/-- BGT's condition, on Z, N and V (R258). -/
theorem not_or_xor_eq_decide (z n v : Bool) : (!(z || (n ^^ v))) = decide (z = false ∧ n = v) := by
  rw [Bool.not_or, not_xor_eq_decide, Bool.decide_and, Bool.decide_eq_false]

/-- BLE's condition, on Z, N and V (R259). -/
theorem or_xor_eq_decide (z n v : Bool) : (z || (n ^^ v)) = decide (z = true ∨ n ≠ v) := by
  rw [xor_eq_decide, Bool.decide_or, Bool.decide_eq_true]

/-! Branches -/

/-- What a branch answers where its condition is another Boolean's value (R126). -/
theorem State.next_branch (s : State) (rr : Byte) {b cond : Bool} (h : b = cond) :
    (.next (s.branch rr b) : Result) = .next { s with pc := if cond then s.branchTarget rr else s.pc } := by
  rw [h, State.branch_eq]

/-- BRSET: C takes bit n, and PC goes by it (R264). -/
theorem exec_brset (n : BitVec 3) (dd rr : Byte) (s : State) :
    exec (.brset n dd rr) s = .next { s with
      ccr := { s.ccr with c := bitOf (s.read 0 (zext16 dd)) n }
      pc := if bitOf (s.read 0 (zext16 dd)) n then s.branchTarget rr else s.pc } := by
  change execBrset n dd rr s = _
  rw [execBrset, State.branch_eq]
  rfl

/-- BRCLR: C takes bit n, and PC goes by its complement (R263). -/
theorem exec_brclr (n : BitVec 3) (dd rr : Byte) (s : State) :
    exec (.brclr n dd rr) s = .next { s with
      ccr := { s.ccr with c := bitOf (s.read 0 (zext16 dd)) n }
      pc := if bitOf (s.read 0 (zext16 dd)) n then s.pc else s.branchTarget rr } := by
  change execBrclr n dd rr s = _
  rw [execBrclr, State.branch_eq]
  cases bitOf (s.read 0 (zext16 dd)) n <;> rfl

/-- Settles O50: each branch by its condition as the statement words it. -/
theorem branches : Obligations.Branches := by
  refine ⟨fun s rr => ?_, fun s n dd rr => ?_⟩
  · have isClear (b : Bool) : (!b) = decide (b = false) := Bool.decide_eq_false.symm
    have isSet (b : Bool) : b = decide (b = true) := Bool.decide_eq_true.symm
    exact ⟨s.next_branch rr rfl, s.next_branch rr rfl,
      s.next_branch rr (isClear s.ccr.c), s.next_branch rr (isSet s.ccr.c),
      s.next_branch rr (isClear s.ccr.z), s.next_branch rr (isSet s.ccr.z),
      s.next_branch rr (isClear s.ccr.hf), s.next_branch rr (isSet s.ccr.hf),
      s.next_branch rr (not_or_eq_decide s.ccr.c s.ccr.z), s.next_branch rr (or_eq_decide s.ccr.c s.ccr.z),
      s.next_branch rr (isClear s.ccr.n), s.next_branch rr (isSet s.ccr.n),
      s.next_branch rr (isClear s.ccr.i), s.next_branch rr (isSet s.ccr.i),
      s.next_branch rr (isSet s.inputs.irqPinLater), s.next_branch rr (isClear s.inputs.irqPinLater),
      s.next_branch rr (not_xor_eq_decide s.ccr.n s.ccr.v), s.next_branch rr (xor_eq_decide s.ccr.n s.ccr.v),
      s.next_branch rr (not_or_xor_eq_decide s.ccr.z s.ccr.n s.ccr.v),
      s.next_branch rr (or_xor_eq_decide s.ccr.z s.ccr.n s.ccr.v)⟩
  · rw [← zext16_eq]
    exact ⟨exec_brset n dd rr s, exec_brclr n dd rr s⟩

/-! Jumps and calls -/

/-- The push of a return address stores its low byte at SP and its high byte below, and nothing else (R57, R268). -/
theorem State.storesExactly_pushPC {s : State} (hm : s.mem.wf = true) :
    s.StoresExactly s.pushPC [(s.sp, loByte s.pc), (s.sp - 1, hiByte s.pc)] := by
  have hne : s.sp ≠ s.sp - 1 := by bv_omega
  rw [State.pushPC_eq]
  exact (s.storesExactly_writes _ hm (by simpa using hne)).of_eq rfl rfl rfl rfl

/-- Of the CPU the push of a return address changes SP alone (R268). -/
theorem State.pushPC_cpu (s : State) : s.pushPC.cpu = { s.cpu with sp := s.sp - 2 } := by
  simp [State.cpu]

/-- BSR: the return address pushed, then PC at the target (R269). -/
theorem exec_bsr (rr : Byte) (s : State) :
    exec (.bsr rr) s = .next { s.pushPC with pc := s.branchTarget rr } := by
  change Host.Outcome.next (s.pushPC.branch rr true) = _
  rw [State.branch_eq, if_pos rfl, State.branchTarget, State.pushPC_pc, State.branchTarget]

/-- A subroutine call, with PC at `target`: the frame stored, SP two lower (R268, R269). -/
theorem State.call_stores {s : State} (hm : s.mem.wf = true) (target : Word) :
    s.StoresExactly { s.pushPC with pc := target } [(s.sp, loByte s.pc), (s.sp - 1, hiByte s.pc)] ∧
      State.cpu { s.pushPC with pc := target } = { s.cpu with sp := s.sp - 2, pc := target } :=
  ⟨(State.storesExactly_pushPC hm).of_eq rfl rfl rfl rfl,
    congrArg (fun c : Cpu => { c with pc := target }) s.pushPC_cpu⟩

/-- RTS: PC from the two bytes above SP, the high byte first (R270). -/
theorem exec_rts (s : State) :
    exec .rts s = .next { s with
      pc := join (s.read 0 (s.sp + 1)) (s.read 1 (s.sp + 2)), sp := s.sp + 2 } := by
  have hsp : s.sp + 1 + 1 = s.sp + 2 := by bv_omega
  have htop : s.popped.top 1 = s.read 1 (s.sp + 2) := by rw [← hsp]; rfl
  change execRts s = _
  rw [execRts, htop]
  rfl

/-- Settles O53: a jump, two calls by the frame they push, and the return by the two bytes it reads. -/
theorem jumpsAndCalls : Obligations.JumpsAndCalls := by
  intro s hm
  simp only [← loByte_eq, ← hiByte_eq, ← join_eq]
  exact ⟨fun _ => rfl, fun m => ⟨_, rfl, State.call_stores hm (s.ea m)⟩,
    fun rr => ⟨_, exec_bsr rr s, State.call_stores hm (s.branchTarget rr)⟩, exec_rts s⟩

end Sys2Proof.Machine
end

section
/-! The data movement family: loads and stores (R140 to R145), pushes and pulls (R146 to R151), transfers (R154 to
R157). -/

namespace Sys2Proof.Machine

/-! Loads and stores -/

/-- Settles O27: each load leaves the operand and its move flags, LDHX the operand's two bytes. -/
theorem loads : Obligations.Loads := by
  intro s
  simp only [← CCR.move8_eq, ← CCR.move16_eq, ← hiByte_eq, ← loByte_eq]
  exact ⟨fun _ => rfl, fun _ => rfl, fun _ => rfl⟩

/-- The move flags of H:X, byte by byte: N from H, Z from both (R145). -/
theorem State.move16_hx (s : State) :
    s.ccr.move16 s.hx = { s.ccr with
      v := false, n := decide (128 ≤ s.h.toNat), z := decide (s.h.toNat = 0 ∧ s.x.toNat = 0) } := by
  have hn : 32768 ≤ s.hx.toNat ↔ 128 ≤ s.h.toNat := by
    rw [s.toNat_hx]
    omega
  have hz : s.hx.toNat = 0 ↔ s.h.toNat = 0 ∧ s.x.toNat = 0 := by
    rw [s.toNat_hx]
    omega
  simp only [CCR.move16_eq, hn, hz]

/-- Bus writes at different addresses, then the flags: the bytes stored, and of the CPU the flags alone. -/
theorem State.writes_with_ccr {s : State} {cs : List (Word × Byte)} (hm : s.mem.wf = true)
    (hd : (cs.map (·.1)).Nodup) (f : CCR) :
    s.StoresExactly { s.writes cs with ccr := f } cs ∧
      State.cpu { s.writes cs with ccr := f } = { s.cpu with ccr := f } :=
  ⟨(s.storesExactly_writes cs hm hd).of_eq rfl rfl rfl rfl,
    congrArg (fun c : Cpu => { c with ccr := f }) (s.writes_cpu cs)⟩

/-- Settles O28: STA and STX are one bus write and STHX is two, each with the move flags of what it stores. -/
theorem stores : Obligations.Stores := by
  intro s hm
  simp only [← CCR.move8_eq, ← State.move16_hx, ← zext16_eq, ← zext16_add_one]
  have hone (m : MemOperand) (v : Byte) : ([(s.ea m, v)].map (·.1)).Nodup := by simp
  refine ⟨fun m => ⟨_, rfl, State.writes_with_ccr hm (hone m s.a) _⟩,
    fun m => ⟨_, rfl, State.writes_with_ccr hm (hone m s.x) _⟩, fun dd => ?_⟩
  have htwo : ([(zext16 dd, s.h), (zext16 dd + 1, s.x)].map (·.1)).Nodup := by simp
  have hsthx : exec (.sthx dd) s = .next { s.writes [(zext16 dd, s.h), (zext16 dd + 1, s.x)] with
      ccr := s.ccr.move16 s.hx } := by
    change execSthx dd s = _
    rw [execSthx, State.write16, State.hx, hiByte_join, loByte_join]
    rfl
  exact ⟨_, hsthx, State.writes_with_ccr hm htwo _⟩

/-! Pushes and pulls -/

/-- A push stores its byte at SP and nothing else, and of the CPU SP alone goes down by one (R14). -/
theorem State.push_stores {s : State} (hm : s.mem.wf = true) (v : Byte) :
    s.StoresExactly (s.push v) [(s.sp, v)] ∧ (s.push v).cpu = { s.cpu with sp := s.sp - 1 } := by
  refine ⟨(s.storesExactly_write s.sp v hm).of_eq rfl rfl rfl rfl, ?_⟩
  simp [State.cpu]

/-- Settles O29: each push by the shared one, each pull by the read one above SP. -/
theorem pushesAndPulls : Obligations.PushesAndPulls := by
  refine ⟨rfl, rfl, rfl, rfl, rfl, rfl, by decide, fun s => ?_⟩
  simp only [sub_one_word, add_one_word]
  exact ⟨fun hm => ⟨⟨_, rfl, State.push_stores hm s.a⟩, ⟨_, rfl, State.push_stores hm s.h⟩,
    ⟨_, rfl, State.push_stores hm s.x⟩⟩, rfl, rfl, rfl⟩

/-! Transfers -/

/-- A number modulo 2^16 into H:X, byte by byte (R11). -/
theorem State.setHX_ofNat (s : State) (n : Nat) :
    s.setHX (BitVec.ofNat 16 n) = { s with h := BitVec.ofNat 8 (n / 256), x := BitVec.ofNat 8 n } := by
  have hh : hiByte (BitVec.ofNat 16 n) = BitVec.ofNat 8 (n / 256) := by
    apply BitVec.eq_of_toNat_eq
    rw [hiByte_toNat, BitVec.toNat_ofNat, BitVec.toNat_ofNat]
    omega
  have hx : loByte (BitVec.ofNat 16 n) = BitVec.ofNat 8 n := by
    apply BitVec.eq_of_toNat_eq
    rw [loByte_toNat, BitVec.toNat_ofNat, BitVec.toNat_ofNat]
    omega
  rw [State.setHX, hh, hx]

/-- H:X one lower, as an integer modulo 2^16 (R156). -/
theorem State.hx_sub_one (s : State) :
    BitVec.ofInt 16 (256 * s.h.toNat + s.x.toNat - 1) = s.hx - 1 := by
  rw [← sub_one_word, s.toNat_hx]
  push_cast
  rfl

/-- Settles O30: TAX and TXA copy a byte, TXS goes one below H:X, TSX one above SP. -/
theorem transfers : Obligations.Transfers := by
  refine ⟨rfl, rfl, rfl, rfl, rfl, rfl, rfl, rfl, fun s => ?_⟩
  rw [State.hx_sub_one, ← State.setHX_ofNat, add_one_word]
  exact ⟨rfl, rfl, rfl, rfl⟩

end Sys2Proof.Machine
end

section
/-! The arithmetic family, part 1: the results and flags of additions and subtractions as numbers (R170 to R176, R183
to R185). -/

namespace Sys2Proof.Machine

/-! Flags as conditions on numbers -/

/-- N after an 8-bit result: the upper half of the byte's range (R15, R34). -/
theorem getLsbD_seven_eq_decide {r : Byte} {p : Prop} [Decidable p] (h : 128 ≤ r.toNat ↔ p) :
    r.getLsbD 7 = decide p := by
  rw [getLsbD_seven, decide_eq_decide]
  exact h

/-- Z after an 8-bit result: the byte is 0 (R15, R35). -/
theorem beq_zero_eq_decide {r : Byte} {p : Prop} [Decidable p] (h : r.toNat = 0 ↔ p) :
    (r == 0#8) = decide p := by
  rw [beq_zero_byte, decide_eq_decide]
  exact h

/-- V after an addition: the operands' signs agree and the result's differs (R170). -/
theorem sum_overflow_eq_decide (a m r : Bool) :
    (a && m && !r || !a && !m && r) = decide (a = m ∧ r ≠ a) := by
  cases a <;> cases m <;> cases r <;> rfl

/-- V after a subtraction: the operands' signs differ and the result has that of the second (R171, R172). -/
theorem difference_overflow_eq_decide (a m r : Bool) :
    (a && !m && !r || !a && m && r) = decide (a ≠ m ∧ r = m) := by
  cases a <;> cases m <;> cases r <;> rfl

/-! Addition -/

/-- V after an addition: the sum of the signed operands leaves the byte's signed range (R31, R170). -/
theorem CCR.addFlags_v (f : CCR) (a m : Byte) (c : Bool) :
    (f.addFlags a m c).v =
      decide (a.toInt + m.toInt + c.toNat < -128 ∨ 127 < a.toInt + m.toInt + c.toNat) := by
  have hc := Bool.toNat_le c
  have hv : (f.addFlags a m c).v = decide (a.getLsbD 7 = m.getLsbD 7 ∧ (addResult a m c).getLsbD 7 ≠ a.getLsbD 7) :=
    sum_overflow_eq_decide _ _ _
  rw [hv, decide_eq_decide]
  simp only [getLsbD_seven, toNat_addResult, toInt_byte, decide_eq_decide, ne_eq]
  omega

/-- The flags of an addition, each by its number (R170). -/
theorem CCR.addFlags_eq (f : CCR) (a m : Byte) (c : Bool) :
    f.addFlags a m c = { f with
      v := decide (a.toInt + m.toInt + c.toNat < -128 ∨ 127 < a.toInt + m.toInt + c.toNat)
      hf := decide (15 < a.toNat % 16 + m.toNat % 16 + c.toNat)
      n := decide (128 ≤ (a.toNat + m.toNat + c.toNat) % 256)
      z := decide ((a.toNat + m.toNat + c.toNat) % 256 = 0)
      c := decide (255 < a.toNat + m.toNat + c.toNat) } := by
  rw [← f.addFlags_v]
  simp only [CCR.addFlags, CCR.nz8, toNat_carryByte, getLsbD_seven (addResult a m c), beq_zero_byte,
    toNat_addResult, gt_iff_lt]

/-- The sum as a byte (R170). -/
theorem addResult_eq (a m : Byte) (c : Bool) :
    addResult a m c = BitVec.ofNat 8 (a.toNat + m.toNat + c.toNat) := by
  apply BitVec.eq_of_toNat_eq
  rw [toNat_addResult, BitVec.toNat_ofNat]

/-- Settles O33: each flag by its number; the carries out of bits 7 and 3 in the bit form by the sizes of the operands
and of the result, in the byte and in its low half. -/
theorem additionFlags : Obligations.AdditionFlags := by
  intro f a m c
  have hc := Bool.toNat_le c
  refine ⟨toNat_addResult a m c, ?_, ?_, rfl, sum_overflow_eq_decide _ _ _, rfl, beq_eq_decide _ _, rfl, ?_, ?_⟩
  · rw [CCR.addFlags_eq]
  · rw [CCR.addFlags_eq]
  · rw [CCR.addFlags_eq, Bool.eq_iff_iff]
    simp only [getLsbD_seven, toNat_addResult, Bool.or_eq_true, Bool.and_eq_true, Bool.not_eq_true',
      decide_eq_true_eq, decide_eq_false_iff_not]
    omega
  · rw [CCR.addFlags_eq, Bool.eq_iff_iff]
    simp only [getLsbD_three, toNat_addResult, Bool.or_eq_true, Bool.and_eq_true, Bool.not_eq_true',
      decide_eq_true_eq, decide_eq_false_iff_not]
    omega

/-- Settles O35: ADD is the addition without a carry in, ADC the one with C. -/
theorem additions : Obligations.Additions := by
  intro s src
  have hadd (c : Bool) :=
    congrArg₂ (fun (r : Byte) (f : CCR) => (.next { s with a := r, ccr := f } : Result))
      (addResult_eq s.a (s.operand src) c) (s.ccr.addFlags_eq s.a (s.operand src) c)
  exact ⟨hadd false, hadd s.ccr.c⟩

/-! Subtraction -/

/-- The difference as a byte (R171). -/
theorem subResult_eq (a m : Byte) (c : Bool) :
    subResult a m c = BitVec.ofInt 8 (a.toNat - m.toNat - c.toNat) := by
  apply BitVec.eq_of_toNat_eq
  rw [toNat_subResult, BitVec.toNat_ofInt]
  rfl

/-- The difference without a borrow in (R171, R175). -/
theorem subResult_false (a m : Byte) : subResult a m false = BitVec.ofInt 8 (a.toNat - m.toNat) := by
  rw [subResult_eq, Bool.toNat_false, Nat.cast_zero, sub_zero]

/-- V after a subtraction: the difference of the signed operands leaves the byte's signed range (R31, R171). -/
theorem CCR.subFlags_v (f : CCR) (a m : Byte) (c : Bool) :
    (f.subFlags a m c).v =
      decide (a.toInt - m.toInt - c.toNat < -128 ∨ 127 < a.toInt - m.toInt - c.toNat) := by
  have hc := Bool.toNat_le c
  have hv : (f.subFlags a m c).v = decide (a.getLsbD 7 ≠ m.getLsbD 7 ∧ (subResult a m c).getLsbD 7 = m.getLsbD 7) :=
    difference_overflow_eq_decide _ _ _
  rw [hv, decide_eq_decide]
  simp only [getLsbD_seven, toNat_subResult, toInt_byte, decide_eq_decide, ne_eq]
  omega

/-- The flags of a subtraction, each by its number (R171). -/
theorem CCR.subFlags_eq (f : CCR) (a m : Byte) (c : Bool) :
    f.subFlags a m c = { f with
      v := decide (a.toInt - m.toInt - c.toNat < -128 ∨ 127 < a.toInt - m.toInt - c.toNat)
      n := decide (128 ≤ ((a.toNat : Int) - m.toNat - c.toNat) % 256)
      z := decide (((a.toNat : Int) - m.toNat - c.toNat) % 256 = 0)
      c := decide (a.toNat < m.toNat + c.toNat) } := by
  have hn : (subResult a m c).getLsbD 7 = decide (128 ≤ ((a.toNat : Int) - m.toNat - c.toNat) % 256) :=
    getLsbD_seven_eq_decide (by rw [toNat_subResult]; omega)
  have hz : (subResult a m c == 0#8) = decide (((a.toNat : Int) - m.toNat - c.toNat) % 256 = 0) :=
    beq_zero_eq_decide (by rw [toNat_subResult]; omega)
  rw [← f.subFlags_v, ← hn, ← hz]
  simp only [CCR.subFlags, CCR.nz8, toNat_carryByte, gt_iff_lt]

/-- Settles O34: each flag by its number; the borrow in the bit form by the sizes of the operands and of the
result. -/
theorem subtractionFlags : Obligations.SubtractionFlags := by
  intro f a m c
  have hc := Bool.toNat_le c
  refine ⟨subResult_eq a m c, ?_, rfl, difference_overflow_eq_decide _ _ _, rfl, beq_eq_decide _ _, rfl, rfl, ?_⟩
  · rw [CCR.subFlags_eq]
  · rw [CCR.subFlags_eq, Bool.eq_iff_iff]
    simp only [getLsbD_seven, toNat_subResult, Bool.or_eq_true, Bool.and_eq_true, Bool.not_eq_true',
      decide_eq_true_eq, decide_eq_false_iff_not]
    omega

/-- The difference of two words, as a number (R172). -/
theorem toNat_sub_word (a m : Word) : (a - m).toNat = (((a.toNat : Int) - m.toNat) % 65536).toNat := by
  rw [BitVec.toNat_sub]
  omega

/-- V after a 16-bit comparison: the difference leaves the word's signed range (R31, R172). -/
theorem CCR.sub16Flags_v (f : CCR) (a m : Word) :
    (f.sub16Flags a m).v = decide (a.toInt - m.toInt < -32768 ∨ 32767 < a.toInt - m.toInt) := by
  have hv : (f.sub16Flags a m).v = decide (a.getLsbD 15 ≠ m.getLsbD 15 ∧ (a - m).getLsbD 15 = m.getLsbD 15) :=
    difference_overflow_eq_decide _ _ _
  rw [hv, decide_eq_decide]
  simp only [getLsbD_fifteen, toNat_sub_word, toInt_word, decide_eq_decide, ne_eq]
  omega

/-- The flags of a 16-bit comparison, each by its number (R172). -/
theorem CCR.sub16Flags_eq (f : CCR) (a m : Word) :
    f.sub16Flags a m = { f with
      v := decide (a.toInt - m.toInt < -32768 ∨ 32767 < a.toInt - m.toInt)
      n := decide (32768 ≤ ((a.toNat : Int) - m.toNat) % 65536)
      z := decide (a = m), c := decide (a.toNat < m.toNat) } := by
  have hn : (a - m).getLsbD 15 = decide (32768 ≤ ((a.toNat : Int) - m.toNat) % 65536) := by
    rw [getLsbD_fifteen, toNat_sub_word, decide_eq_decide]
    omega
  have hz : (a - m == 0#16) = decide (a = m) := by
    rw [beq_eq_decide, decide_eq_decide, BitVec.sub_eq_iff_eq_add, BitVec.zero_add]
  rw [← f.sub16Flags_v, ← hn, ← hz]
  rfl

/-- Settles O36: SUB and SBC write the difference and its flags, without a borrow in and with C; the compares write
the flags of the difference without a borrow. -/
theorem subtractions : Obligations.Subtractions := by
  refine ⟨fun s src => ?_, fun s src => ?_⟩
  · have hsub {c : Bool} {d : Byte} (hd : subResult s.a (s.operand src) c = d) :=
      congrArg₂ (fun (r : Byte) (f : CCR) => (.next { s with a := r, ccr := f } : Result))
        hd (s.ccr.subFlags_eq s.a (s.operand src) c)
    have hcompare (a : Byte) :=
      congrArg (fun f : CCR => (.next { s with ccr := f } : Result)) (s.ccr.subFlags_eq a (s.operand src) false)
    exact ⟨hsub (subResult_false _ _), hsub (subResult_eq _ _ _), hcompare s.a, hcompare s.x⟩
  · rw [← s.hx_eq]
    exact congrArg (fun f : CCR => (.next { s with ccr := f } : Result)) (s.ccr.sub16Flags_eq s.hx (s.operand16 src))

end Sys2Proof.Machine
end

section
/-! The arithmetic family, part 2: MUL and DIV (R177, R178). -/

namespace Sys2Proof.Machine

/-- The product of two bytes fits a word (R177). -/
theorem mul_setWidth_eq (x a : Byte) : x.setWidth 16 * a.setWidth 16 = BitVec.ofNat 16 (x.toNat * a.toNat) := by
  apply BitVec.eq_of_toNat_eq
  rw [BitVec.toNat_mul, BitVec.toNat_setWidth_of_le (by decide), BitVec.toNat_setWidth_of_le (by decide),
    BitVec.toNat_ofNat]

/-- MUL: X:A takes the product, byte by byte (R177). -/
theorem exec_mul (s : State) :
    exec .mul s = .next { s with
      x := BitVec.ofNat 8 (s.x.toNat * s.a.toNat / 256), a := BitVec.ofNat 8 (s.x.toNat * s.a.toNat)
      ccr := { s.ccr with hf := false, c := false } } := by
  have hhi : hiByte (BitVec.ofNat 16 (s.x.toNat * s.a.toNat)) = BitVec.ofNat 8 (s.x.toNat * s.a.toNat / 256) :=
    congrArg State.h (s.setHX_ofNat _)
  have hlo : loByte (BitVec.ofNat 16 (s.x.toNat * s.a.toNat)) = BitVec.ofNat 8 (s.x.toNat * s.a.toNat) :=
    congrArg State.x (s.setHX_ofNat _)
  change execMul s = _
  rw [execMul, mul_setWidth_eq, hhi, hlo]

/-- The quotient of H:A by X does not fit a byte exactly where H is not below X, X = 0 included (R178). -/
theorem div_overflow_iff {x h a : Nat} (ha : a < 256) :
    x ≤ h ↔ x = 0 ∨ 255 < (256 * h + a) / x := by
  obtain rfl | hx := Nat.eq_zero_or_pos x
  · simp
  · rw [Nat.lt_iff_add_one_le, Nat.le_div_iff_mul_le hx]
    omega

/-- DIV where the quotient does not fit: C is set; A, H and Z are any values (R178, U2; log 19). -/
theorem exec_div_of_le {s : State} (h : s.x.toNat ≤ s.h.toNat) :
    exec .div s = .next { s with
      a := Config.divA s.draws, h := Config.divH s.draws
      ccr := { s.ccr with c := true, z := Config.divZ s.draws } } := by
  change execDiv s = _
  rw [execDiv, toNat_join]
  exact if_pos ((div_overflow_iff s.a.isLt).1 h)

/-- DIV where the quotient fits: A is the quotient and H the remainder, C is cleared, and Z says whether the quotient
is 0 (R178). -/
theorem exec_div_of_lt {s : State} (h : s.h.toNat < s.x.toNat) :
    exec .div s = .next { s with
      a := BitVec.ofNat 8 ((256 * s.h.toNat + s.a.toNat) / s.x.toNat)
      h := BitVec.ofNat 8 ((256 * s.h.toNat + s.a.toNat) % s.x.toNat)
      ccr := { s.ccr with c := false, z := decide ((256 * s.h.toNat + s.a.toNat) / s.x.toNat = 0) } } := by
  change execDiv s = _
  rw [execDiv, toNat_join]
  exact if_neg fun hoverflow => Nat.not_le_of_lt h ((div_overflow_iff s.a.isLt).2 hoverflow)

/-- Settles O37: the product; then the two cases of the division. -/
theorem multiplyDivide : Obligations.MultiplyDivide := by
  intro s d
  refine ⟨exec_mul s, div_overflow_iff s.a.isLt, ?_⟩
  obtain hlt | hle := Nat.lt_or_ge s.h.toNat s.x.toNat
  · have hx : 0 < s.x.toNat := Nat.zero_lt_of_lt hlt
    have hq : d / s.x.toNat ≤ 255 :=
      Nat.not_lt.1 fun hq => Nat.not_le_of_lt hlt ((div_overflow_iff s.a.isLt).2 (.inr hq))
    have hr : d % s.x.toNat < 256 := (Nat.mod_lt d hx).trans s.x.isLt
    have hqa : (BitVec.ofNat 8 (d / s.x.toNat)).toNat = d / s.x.toNat := Nat.mod_eq_of_lt (Nat.lt_succ_of_le hq)
    have hrh : (BitVec.ofNat 8 (d % s.x.toNat)).toNat = d % s.x.toNat := Nat.mod_eq_of_lt hr
    refine ⟨_, exec_div_of_lt hlt, rfl, (decide_eq_false (Nat.not_le_of_lt hlt)).symm, fun _ => ⟨hqa, hrh, ?_, ?_⟩⟩
    · exact (congrArg₂ (fun q r => q * s.x.toNat + r) hqa hrh).trans (Nat.div_add_mod' d s.x.toNat)
    · exact congrArg (fun q => decide (q = 0)) hqa.symm
  · exact ⟨_, exec_div_of_le hle, rfl, (decide_eq_true hle).symm, fun hlt => absurd hle (Nat.not_le_of_lt hlt)⟩

end Sys2Proof.Machine
end

section
/-! The arithmetic family, part 3: the single-operand instructions, on memory, on A and on X (R179 to R182, R186,
R187). -/

namespace Sys2Proof.Machine

/-- Instructions that are the read-modify-write shape on memory, A and X, with the result and the flags the statement
gives (R62, R179). -/
theorem singleOperand_of_modify {onMemory : MemOperand → Instr} {onA onX : Instr} {result : CCR → Byte → Byte}
    {flags : CCR → Byte → CCR} (hA : ∀ s : State, exec onA s = .next (s.modifyA (result s.ccr) flags))
    (hX : ∀ s : State, exec onX s = .next (s.modifyX (result s.ccr) flags))
    (hM : ∀ (m : MemOperand) (s : State), exec (onMemory m) s = .next (s.modify m (result s.ccr) flags)) :
    SingleOperand onMemory onA onX result flags := fun s =>
  ⟨hA s, hX s, fun m hm => ⟨_, hM m s, s.modify_stores m (result s.ccr) flags hm⟩⟩

/-- Two bytes are the same exactly where their signed numbers are. -/
theorem beq_eq_decide_toInt (v w : Byte) : (v == w) = decide (v.toInt = w.toInt) := by
  rw [beq_eq_decide, decide_eq_decide, BitVec.toInt_inj]

/-! INC and DEC -/

/-- One more, modulo 2^8 (R179). -/
theorem add_one_byte (v : Byte) : BitVec.ofNat 8 (v.toNat + 1) = v + 1#8 := by
  apply BitVec.eq_of_toNat_eq
  rw [BitVec.toNat_ofNat, BitVec.toNat_add]
  rfl

/-- The flags of INC by the operand (R179). -/
theorem CCR.incFlags_eq (f : CCR) (v : Byte) : f.incFlags v = { f with
    v := decide (v.toInt = 127), n := decide (127 ≤ v.toNat ∧ v.toNat < 255), z := decide (v.toNat = 255) } := by
  have hr : (v + 1#8).toNat = (v.toNat + 1) % 256 := BitVec.toNat_add v 1#8
  have hv : (v == 0x7F#8) = decide (v.toInt = 127) := beq_eq_decide_toInt v 0x7F#8
  have hn : (v + 1#8).getLsbD 7 = decide (127 ≤ v.toNat ∧ v.toNat < 255) := getLsbD_seven_eq_decide (by omega)
  have hz : (v + 1#8 == 0#8) = decide (v.toNat = 255) := beq_zero_eq_decide (by omega)
  rw [← hv, ← hn, ← hz]
  rfl

/-- The flags of DEC by the operand (R180). -/
theorem CCR.decFlags_eq (f : CCR) (v : Byte) : f.decFlags v = { f with
    v := decide (v.toInt = -128), n := decide (v.toNat = 0 ∨ 128 < v.toNat), z := decide (v.toNat = 1) } := by
  have hr : (v - 1#8).toNat = (255 + v.toNat) % 256 := BitVec.toNat_sub v 1#8
  have hv : (v == 0x80#8) = decide (v.toInt = -128) := beq_eq_decide_toInt v 0x80#8
  have hn : (v - 1#8).getLsbD 7 = decide (v.toNat = 0 ∨ 128 < v.toNat) := getLsbD_seven_eq_decide (by omega)
  have hz : (v - 1#8 == 0#8) = decide (v.toNat = 1) := beq_zero_eq_decide (by omega)
  rw [← hv, ← hn, ← hz]
  rfl

/-- Settles O38: INC and DEC are read-modify-writes whose result and flags are those of the numbers. -/
theorem incrementDecrement : Obligations.IncrementDecrement := by
  unfold Obligations.IncrementDecrement
  simp only [add_one_byte, sub_one_byte, ← CCR.incFlags_eq, ← CCR.decFlags_eq]
  exact ⟨singleOperand_of_modify (fun _ => rfl) (fun _ => rfl) (fun _ _ => rfl),
    singleOperand_of_modify (fun _ => rfl) (fun _ => rfl) (fun _ _ => rfl)⟩

/-! COM and NEG -/

/-- The complement as a number (R181). -/
theorem comResult_eq (v : Byte) : BitVec.ofNat 8 (255 - v.toNat) = comResult v := by
  apply BitVec.eq_of_toNat_eq
  have hcom : comResult v = ~~~v := BitVec.xor_allOnes
  rw [hcom, BitVec.toNat_not, BitVec.toNat_ofNat]
  omega

/-- The flags of COM by the operand (R181). -/
theorem CCR.comFlags_eq (f : CCR) (v : Byte) : f.comFlags v = { f with
    v := false, n := decide (v.toNat < 128), z := decide (v.toNat = 255), c := true } := by
  have hr : (comResult v).toNat = (255 - v.toNat) % 256 := by rw [← comResult_eq, BitVec.toNat_ofNat]
  have hn : (comResult v).getLsbD 7 = decide (v.toNat < 128) := getLsbD_seven_eq_decide (by omega)
  have hz : (comResult v == 0#8) = decide (v.toNat = 255) := beq_zero_eq_decide (by omega)
  rw [← hn, ← hz]
  rfl

/-- The negation as a number (R182). -/
theorem negResult_eq (v : Byte) : BitVec.ofInt 8 (-v.toNat) = negResult v := by
  rw [BitVec.ofInt_neg, BitVec.ofInt_natCast, BitVec.ofNat_toNat, BitVec.setWidth_eq, negResult, BitVec.zero_sub]

/-- The flags of NEG by the operand (R182). -/
theorem CCR.negFlags_eq (f : CCR) (v : Byte) : f.negFlags v = { f with
    v := decide (v.toInt = -128), n := decide (0 < v.toNat ∧ v.toNat ≤ 128)
    z := decide (v.toNat = 0), c := decide (v.toNat ≠ 0) } := by
  have hr : (negResult v).toNat = (256 - v.toNat) % 256 := BitVec.toNat_sub 0#8 v
  have hv : (v == 0x80#8) = decide (v.toInt = -128) := beq_eq_decide_toInt v 0x80#8
  have hn : (negResult v).getLsbD 7 = decide (0 < v.toNat ∧ v.toNat ≤ 128) := getLsbD_seven_eq_decide (by omega)
  have hz : (negResult v == 0#8) = decide (v.toNat = 0) := beq_zero_eq_decide (by omega)
  have hc : (negResult v != 0#8) = decide (v.toNat ≠ 0) := by rw [bne, hz, decide_not]
  rw [← hv, ← hn, ← hz, ← hc]
  rfl

/-- Settles O39: COM and NEG are read-modify-writes whose result and flags are those of the numbers. -/
theorem complementNegate : Obligations.ComplementNegate := by
  unfold Obligations.ComplementNegate
  simp only [comResult_eq, negResult_eq, ← CCR.comFlags_eq, ← CCR.negFlags_eq]
  exact ⟨singleOperand_of_modify (fun _ => rfl) (fun _ => rfl) (fun _ _ => rfl),
    singleOperand_of_modify (fun _ => rfl) (fun _ => rfl) (fun _ _ => rfl)⟩

/-! CLR and TST -/

/-- Settles O40: CLR is one bus write and the cleared flags, TST the move flags of its operand. -/
theorem clearTest : Obligations.ClearTest := by
  intro s
  simp only [← CCR.move8_eq]
  have hone (m : MemOperand) : ([(s.ea m, 0x00#8)].map (·.1)).Nodup := by simp
  exact ⟨fun m hm => ⟨_, rfl, State.writes_with_ccr hm (hone m) s.ccr.clrFlags⟩, rfl, rfl, rfl, fun _ => rfl, rfl,
    rfl⟩

end Sys2Proof.Machine
end

section
/-! The arithmetic family, part 4: signed immediates added to SP and H:X (R188, R189), carries through two bytes
(R173 to R176), and a comparison before a branch (R183, R247 to R260). -/

namespace Sys2Proof.Machine

/-! AIS and AIX -/

/-- A word plus a signed byte, as an integer modulo 2^16 (R10, R188). -/
theorem add_sext16 (w : Word) (b : Byte) : w + sext16 b = BitVec.ofInt 16 (w.toNat + b.toInt) := by
  rw [BitVec.ofInt_add, BitVec.ofInt_natCast, BitVec.ofNat_toNat, BitVec.setWidth_eq]
  rfl

/-- The same sum as a number. -/
theorem toNat_add_sext16 (w : Word) (b : Byte) : ((w + sext16 b).toNat : Int) = (w.toNat + b.toInt) % 65536 := by
  rw [add_sext16, BitVec.toNat_ofInt, Int.toNat_of_nonneg (Int.emod_nonneg _ (by decide))]
  rfl

/-- A word put into H:X, as the number of the two bytes (R11). -/
theorem State.toNat_setHX (s : State) (w : Word) : 256 * (s.setHX w).h.toNat + (s.setHX w).x.toNat = w.toNat := by
  rw [← State.toNat_hx, State.hx_setHX]

/-- Settles O41: SP takes the sum, and so does H:X, whose two bytes are that number. -/
theorem addImmediateToPointer : Obligations.AddImmediateToPointer := by
  refine ⟨fun _ => ⟨rfl, rfl⟩, fun _ => ⟨rfl, rfl⟩, fun s ii => ⟨?_, s.setHX (s.hx + sext16 ii), rfl, rfl, ?_⟩⟩
  · rw [← add_sext16]
    rfl
  · have hsum := toNat_add_sext16 s.hx ii
    rw [← s.toNat_setHX, s.toNat_hx] at hsum
    exact_mod_cast hsum

/-! Carry chains -/

/-- Whether a number below twice the weight of a place reaches that weight is its carry out of the places below. -/
theorem toNat_decide_le {w n : Nat} (h : n < 2 * w) : (decide (w ≤ n)).toNat = n / w := by
  obtain hlt | hle := Nat.lt_or_ge n w
  · rw [decide_eq_false (Nat.not_le_of_lt hlt), Nat.div_eq_of_lt hlt, Bool.toNat_false]
  · rw [decide_eq_true hle, show n / w = 1 from Nat.div_eq_of_lt_le (by omega) (by omega), Bool.toNat_true]

/-- C after an addition, as the number carried into the next byte (R36, R170). -/
theorem CCR.toNat_addFlags_c (f : CCR) (a m : Byte) (c : Bool) :
    (f.addFlags a m c).c.toNat = (a.toNat + m.toNat + c.toNat) / 256 := by
  have hc := Bool.toNat_le c
  rw [CCR.addFlags_eq]
  exact toNat_decide_le (by omega)

/-- C after a subtraction, as the number borrowed from the next byte (R36, R171). -/
theorem CCR.toNat_subFlags_c (f : CCR) (a m : Byte) (c : Bool) :
    ((f.subFlags a m c).c.toNat : Int) = -(((a.toNat : Int) - m.toNat - c.toNat) / 256) := by
  have hc := Bool.toNat_le c
  rw [CCR.subFlags_eq]
  obtain h | h := Nat.lt_or_ge a.toNat (m.toNat + c.toNat)
  · rw [decide_eq_true h, Bool.toNat_true]
    omega
  · rw [decide_eq_false (Nat.not_lt_of_le h), Bool.toNat_false]
    omega

/-- Adding the low bytes, then the high bytes with the carry between them, adds the words (R170, R173, R174). -/
theorem addition_chain (p q : Word) (f g : CCR) :
    let c := (f.addFlags (loByte p) (loByte q) false).c
    256 * (addResult (hiByte p) (hiByte q) c).toNat + (addResult (loByte p) (loByte q) false).toNat
      = (p.toNat + q.toNat) % 65536 ∧
    (g.addFlags (hiByte p) (hiByte q) c).c = decide (65535 < p.toNat + q.toNat) ∧
    (g.addFlags (hiByte p) (hiByte q) c).v = decide (p.toInt + q.toInt < -32768 ∨ 32767 < p.toInt + q.toInt) := by
  simp only [CCR.addFlags_eq g, CCR.toNat_addFlags_c, toNat_addResult, toInt_byte, toInt_word, hiByte_toNat,
    loByte_toNat, Bool.toNat_false, decide_eq_decide]
  omega

/-- Subtracting the low bytes, then the high bytes with the borrow between them, subtracts the words (R171, R175,
R176). -/
theorem subtraction_chain (p q : Word) (f g : CCR) :
    let c := (f.subFlags (loByte p) (loByte q) false).c
    (256 * (subResult (hiByte p) (hiByte q) c).toNat + (subResult (loByte p) (loByte q) false).toNat : Int)
      = (p.toNat - q.toNat : Int) % 65536 ∧
    (g.subFlags (hiByte p) (hiByte q) c).c = decide (p.toNat < q.toNat) ∧
    (g.subFlags (hiByte p) (hiByte q) c).v = decide (p.toInt - q.toInt < -32768 ∨ 32767 < p.toInt - q.toInt) := by
  intro c
  have hc : (c.toNat : Int) = _ := CCR.toNat_subFlags_c f (loByte p) (loByte q) false
  simp only [loByte_toNat, Bool.toNat_false] at hc
  simp only [CCR.subFlags_eq g, toNat_subResult, toInt_byte, toInt_word, hiByte_toNat,
    loByte_toNat, Bool.toNat_false, decide_eq_decide]
  omega

/-- Settles O42: the two instructions of each chain write the results and flags of its two steps. -/
theorem carryChains : Obligations.CarryChains := by
  intro s p q
  simp only [← loByte_eq, ← hiByte_eq]
  exact ⟨⟨_, _, rfl, rfl, addition_chain p q s.ccr _⟩, ⟨_, _, rfl, rfl, subtraction_chain p q s.ccr _⟩⟩

/-! A comparison and a branch -/

/-- Z after a subtraction without a borrow in: the operands are equal (R35, R171). -/
theorem CCR.subFlags_z (f : CCR) (a m : Byte) : (f.subFlags a m false).z = decide (a = m) := by
  rw [CCR.subFlags_eq, decide_eq_decide, ← BitVec.toNat_inj, Bool.toNat_false]
  omega

/-- C after a subtraction without a borrow in: the unsigned order (R36, R171). -/
theorem CCR.subFlags_c (f : CCR) (a m : Byte) : (f.subFlags a m false).c = decide (a.toNat < m.toNat) := by
  rw [CCR.subFlags_eq]
  rfl

/-- N differs from V after a subtraction without a borrow in: the signed order (R171, R260). -/
theorem CCR.subFlags_n_ne_v (f : CCR) (a m : Byte) :
    (f.subFlags a m false).n ≠ (f.subFlags a m false).v ↔ a.toInt < m.toInt := by
  simp only [CCR.subFlags_eq, Bool.toNat_false, ne_eq, decide_eq_decide, toInt_byte]
  omega

/-- Settles O51: CMP writes the flags alone, so the target stays, and each branch goes by the order that the flags of
its condition say. -/
theorem compareAndBranch : Obligations.CompareAndBranch := by
  intro s src rr a m
  let t : State := { s with ccr := s.ccr.subFlags a m false }
  have hz : t.ccr.z = decide (a = m) := s.ccr.subFlags_z a m
  have hc : t.ccr.c = decide (a.toNat < m.toNat) := s.ccr.subFlags_c a m
  have hlt : (t.ccr.n ^^ t.ccr.v) = decide (a.toInt < m.toInt) := by
    rw [xor_eq_decide, decide_eq_decide]
    exact s.ccr.subFlags_n_ne_v a m
  have hz_nat : t.ccr.z = decide (a.toNat = m.toNat) := hz.trans (decide_eq_decide.2 BitVec.toNat_inj.symm)
  have hz_int : t.ccr.z = decide (a.toInt = m.toInt) := hz.trans (decide_eq_decide.2 BitVec.toInt_inj.symm)
  refine ⟨t, rfl, t.next_branch rr hz, t.next_branch rr ?_, t.next_branch rr hc, t.next_branch rr ?_,
    t.next_branch rr ?_, t.next_branch rr ?_, t.next_branch rr hlt, t.next_branch rr ?_, t.next_branch rr ?_,
    t.next_branch rr ?_⟩
  · rw [hz, ← decide_not]
  · rw [hc, ← decide_not, decide_eq_decide, Nat.not_lt]
  · rw [hc, hz_nat, ← Bool.decide_or, ← decide_not, decide_eq_decide]
    omega
  · rw [hc, hz_nat, ← Bool.decide_or, decide_eq_decide]
    omega
  · rw [hlt, ← decide_not, decide_eq_decide, Int.not_lt]
  · rw [hlt, hz_int, ← Bool.decide_or, ← decide_not, decide_eq_decide]
    omega
  · rw [hlt, hz_int, ← Bool.decide_or, decide_eq_decide]
    omega

end Sys2Proof.Machine
end

section
/-! The arithmetic family, part 5: DAA after the addition of packed BCD bytes (R290). The rows of the table exclude
each other, so a row that selects is the one DAA takes; and the digit sums of the two bytes, the carry in the lower
one, say which row that is. -/

namespace Sys2Proof.Machine

/-! The rows of the table -/

/-- What a row selects, by the digits of A (R290). -/
theorem DaaRow.selects_iff (row : DaaRow) (f : CCR) (a : Byte) :
    row.selects f a = true ↔ f.c = row.c ∧ f.hf = row.hf ∧
      (row.hiFrom ≤ a.toNat / 16 ∧ a.toNat / 16 ≤ row.hiTo) ∧
      row.loFrom ≤ a.toNat % 16 ∧ a.toNat % 16 ≤ row.loTo := by
  simp [DaaRow.selects, and_assoc]

/-- Two rows differ in C or in Hf, or one's range of a digit lies above the other's. -/
def DaaRow.apart (r r' : DaaRow) : Bool :=
  r.c != r'.c || r.hf != r'.hf || decide (r.hiTo < r'.hiFrom) || decide (r'.hiTo < r.hiFrom) ||
    decide (r.loTo < r'.loFrom) || decide (r'.loTo < r.loFrom)

/-- Rows apart do not select the same C, Hf and A. -/
theorem DaaRow.not_selects_of_apart {r r' : DaaRow} (h : r.apart r' = true) {f : CCR} {a : Byte}
    (hr : r.selects f a = true) : r'.selects f a ≠ true := by
  obtain ⟨hc, hhf, hhi, hlo⟩ := (r.selects_iff f a).1 hr
  intro hr'
  obtain ⟨hc', hhf', hhi', hlo'⟩ := (r'.selects_iff f a).1 hr'
  simp only [DaaRow.apart, ← hc, ← hhf, ← hc', ← hhf', bne_self_eq_false, Bool.or_eq_true, Bool.false_eq_true,
    decide_eq_true_eq, false_or] at h
  omega

/-- The nine rows are apart from each other. -/
theorem daaTable_pairwise_apart : daaTable.Pairwise fun r r' => r.apart r' = true := by decide

/-- In a list of rows apart from each other, a row that selects is the first that does. -/
theorem find?_selects_of_mem {rows : List DaaRow} (hrows : rows.Pairwise fun r r' => r.apart r' = true)
    {row : DaaRow} (hmem : row ∈ rows) {f : CCR} {a : Byte} (hsel : row.selects f a = true) :
    rows.find? (·.selects f a) = some row := by
  induction rows with
  | nil => cases hmem
  | cons r rows ih =>
    rw [List.pairwise_cons] at hrows
    rcases List.mem_cons.1 hmem with rfl | hmem
    · exact List.find?_cons_of_pos hsel
    · have hr : ¬r.selects f a = true := fun hr => DaaRow.not_selects_of_apart (hrows.1 row hmem) hr hsel
      exact (List.find?_cons_of_neg (p := fun r : DaaRow => r.selects f a) hr).trans (ih hrows.2 hmem)

/-- DAA by a row of the table that selects (R290). -/
theorem exec_daa_of_selects {row : DaaRow} (hmem : row ∈ daaTable) {s : State}
    (hsel : row.selects s.ccr s.a = true) :
    exec .daa s = .next { s with
      a := s.a + row.add
      ccr := { s.ccr.nz8 (s.a + row.add) with c := row.cAfter, v := Config.daaV s.draws } } := by
  change execDaa s = _
  rw [execDaa, daaRow, find?_selects_of_mem daaTable_pairwise_apart hmem hsel]

/-! Flags as carries -/

/-- Hf after an addition, as the number carried into bit 4 (R32, R170). -/
theorem CCR.toNat_addFlags_hf (f : CCR) (a m : Byte) (c : Bool) :
    (f.addFlags a m c).hf.toNat = (a.toNat % 16 + m.toNat % 16 + c.toNat) / 16 := by
  have hc := Bool.toNat_le c
  rw [CCR.addFlags_eq]
  exact toNat_decide_le (by omega)

/-- Flags with one number are the same. -/
theorem bool_toNat_injective : Function.Injective Bool.toNat := Function.LeftInverse.injective Bool.ofNat_toNat

/-! The sum of two packed BCD bytes -/

/-- The packed BCD byte of the last two decimal digits of a number. -/
def packedBcd (n : Nat) : Byte := BitVec.ofNat 8 (16 * (n / 10 % 10) + n % 10)

/-- A row that adjusts the sum of packed BCD bytes with digit sums `h` and `l`: it selects what the addition leaves in
C, Hf and A, and gives the decimal digits and the decimal carry of `10 h + l`. -/
def DaaRow.Adjusts (row : DaaRow) (h l : Nat) : Prop :=
  row.c.toNat = (16 * h + l) / 256 ∧ row.hf.toNat = l / 16 ∧
  (row.hiFrom ≤ (16 * h + l) % 256 / 16 ∧ (16 * h + l) % 256 / 16 ≤ row.hiTo) ∧
  (row.loFrom ≤ l % 16 ∧ l % 16 ≤ row.loTo) ∧
  (16 * h + l + row.add.toNat) % 256 = 16 * ((10 * h + l) / 10 % 10) + (10 * h + l) % 10 ∧
  row.cAfter.toNat = (10 * h + l) / 100

/-- The place in the table of the row for digit sums `h` and `l`: by the lower digit, which needs no correction, needs
one, or made a half-carry; and by the upper one, with what the lower one carries into it, which is a digit, needs a
correction, or made a carry. -/
def adjustingPlace (h l : Nat) : Fin 9 :=
  if l ≤ 9 then if h ≤ 9 then 0 else if h ≤ 15 then 3 else 6
  else if l ≤ 15 then if h ≤ 8 then 1 else if h ≤ 15 then 4 else 7
  else if h ≤ 8 then 2 else if h ≤ 14 then 5 else 8

/-- That row adjusts the sum, place by place. -/
theorem adjusts_adjustingPlace {h l : Nat} (hh : h ≤ 18) (hl : l ≤ 19) :
    (daaTable.get (adjustingPlace h l)).Adjusts h l := by
  unfold adjustingPlace
  split_ifs
  all_goals
    simp [daaTable, DaaRow.Adjusts]
    omega

/-- With the digit sums of two packed BCD bytes in A, C and Hf, DAA leaves the decimal digits in A and the decimal
carry in C (R290). -/
theorem exec_daa_of_sums {s : State} {h l : Nat} (hh : h ≤ 18) (hl : l ≤ 19)
    (ha : s.a.toNat = (16 * h + l) % 256) (hc : s.ccr.c.toNat = (16 * h + l) / 256)
    (hhf : s.ccr.hf.toNat = l / 16) :
    ∃ t, exec .daa s = .next t ∧ t.a = packedBcd (10 * h + l) ∧ t.ccr.c = decide (100 ≤ 10 * h + l) := by
  obtain ⟨hrc, hrhf, hhi, hlo, hsum, hcAfter⟩ := adjusts_adjustingPlace hh hl
  have hmem : daaTable.get (adjustingPlace h l) ∈ daaTable := List.get_mem _ _
  have hlow : s.a.toNat % 16 = l % 16 := by omega
  have hsel : (daaTable.get (adjustingPlace h l)).selects s.ccr s.a = true := by
    rw [DaaRow.selects_iff, hlow, ha]
    exact ⟨bool_toNat_injective (hc.trans hrc.symm), bool_toNat_injective (hhf.trans hrhf.symm), hhi, hlo⟩
  refine ⟨_, exec_daa_of_selects hmem hsel, ?_,
    bool_toNat_injective (hcAfter.trans (toNat_decide_le (by omega)).symm)⟩
  apply BitVec.eq_of_toNat_eq
  rw [BitVec.toNat_add, ha, packedBcd, BitVec.toNat_ofNat, ← hsum]
  omega

/-- A packed BCD byte as a number. -/
theorem toNat_packedBcd {n : Nat} (hn : n < 100) : (packedBcd n).toNat = 16 * (n / 10) + n % 10 := by
  have htens : n / 10 < 10 := by omega
  rw [packedBcd, BitVec.toNat_ofNat, Nat.mod_eq_of_lt htens]
  omega

/-- DAA after an addition of two packed BCD bytes, with any carry in (R170, R290). -/
theorem exec_daa_after_addition (s : State) {p q : Nat} (hp : p < 100) (hq : q < 100) (c : Bool) :
    ∃ t, exec .daa { s with
        a := addResult (packedBcd p) (packedBcd q) c
        ccr := s.ccr.addFlags (packedBcd p) (packedBcd q) c } = .next t ∧
      t.a = packedBcd (p + q + c.toNat) ∧ t.ccr.c = decide (100 ≤ p + q + c.toNat) := by
  have hcarry := Bool.toNat_le c
  have hsum : p + q + c.toNat = 10 * (p / 10 + q / 10) + (p % 10 + q % 10 + c.toNat) := by omega
  rw [hsum]
  apply exec_daa_of_sums
  · omega
  · omega
  · rw [toNat_addResult, toNat_packedBcd hp, toNat_packedBcd hq]
    omega
  · rw [CCR.toNat_addFlags_c, toNat_packedBcd hp, toNat_packedBcd hq]
    omega
  · rw [CCR.toNat_addFlags_hf, toNat_packedBcd hp, toNat_packedBcd hq]
    omega

/-- Settles O58: ADD is the addition without a carry in, ADC the one with C. -/
theorem decimalAdjustCorrect : Obligations.DecimalAdjustCorrect := by
  intro s p q hp hq bcd ha
  have hadd (c : Bool) : ∃ t u, (.next { s with
      a := addResult s.a (bcd q) c, ccr := s.ccr.addFlags s.a (bcd q) c } : Result) = .next t ∧
      exec .daa t = .next u ∧ u.a = bcd (p + q + c.toNat) ∧ u.ccr.c = decide (100 ≤ p + q + c.toNat) := by
    rw [ha]
    exact ⟨_, (exec_daa_after_addition s hp hq c).imp fun _ h => ⟨rfl, h⟩⟩
  exact ⟨hadd false, hadd s.ccr.c⟩

end Sys2Proof.Machine
end

section
/-! The logic and bits family: AND, ORA, EOR and BIT (R200 to R203), BCLR and BSET (R204, R205), the flag instructions
(R206 to R209) and the boundary after them (R316, R320). -/

namespace Sys2Proof.Machine

/-! Logic -/

/-- Settles O43: the results are the bitwise operations, and the flags of all four are the move flags. -/
theorem logic : Obligations.Logic := by
  intro s src
  simp only [← CCR.move8_eq]
  exact ⟨s.a &&& s.operand src, s.a ||| s.operand src, s.a ^^^ s.operand src,
    fun _ _ => ⟨BitVec.getLsbD_and, BitVec.getLsbD_or, BitVec.getLsbD_xor⟩, rfl, rfl, rfl, rfl⟩

/-! Writes of one bit -/

/-- The mask of a bit number has that bit alone. -/
theorem getLsbD_bitMask (n : BitVec 3) (j : Nat) : (bitMask n).getLsbD j = decide (n.toNat = j) := by
  rw [bitMask, ← BitVec.twoPow_eq, BitVec.getLsbD_twoPow, decide_eq_true n.isLt, Bool.true_and]

/-- BCLR's byte (R204). -/
theorem getLsbD_and_not_bitMask (v : Byte) (n : BitVec 3) {j : Nat} (hj : j < 8) :
    (v &&& ~~~(bitMask n)).getLsbD j = if j = n.toNat then false else v.getLsbD j := by
  rw [BitVec.getLsbD_and, BitVec.getLsbD_not, getLsbD_bitMask, decide_eq_true hj, Bool.true_and]
  by_cases h : j = n.toNat
  · rw [if_pos h, decide_eq_true h.symm, Bool.not_true, Bool.and_false]
  · rw [if_neg h, decide_eq_false (Ne.symm h), Bool.not_false, Bool.and_true]

/-- BSET's byte (R205). -/
theorem getLsbD_or_bitMask (v : Byte) (n : BitVec 3) (j : Nat) :
    (v ||| bitMask n).getLsbD j = if j = n.toNat then true else v.getLsbD j := by
  rw [BitVec.getLsbD_or, getLsbD_bitMask]
  by_cases h : j = n.toNat
  · rw [if_pos h, decide_eq_true h.symm, Bool.or_true]
  · rw [if_neg h, decide_eq_false (Ne.symm h), Bool.or_false]

/-- Settles O44: each is one bus write at the direct address, of the byte read there with the one bit changed. -/
theorem bitWrites : Obligations.BitWrites := by
  intro s n dd hm
  simp only [← zext16_eq]
  have hcpu (v : Byte) : (s.write (zext16 dd) v).cpu = s.cpu := s.writes_cpu [(zext16 dd, v)]
  exact ⟨⟨_, _, rfl, hcpu _, s.storesExactly_write _ _ hm, fun _ => getLsbD_and_not_bitMask _ n⟩,
    ⟨_, _, rfl, hcpu _, s.storesExactly_write _ _ hm, fun j _ => getLsbD_or_bitMask _ n j⟩⟩

/-! Flags and the interrupt mask -/

/-- With I set no interrupt is taken (R316). -/
theorem State.interrupt_of_i {s : State} (h : s.ccr.i = true) : s.interrupt = none := by
  rw [State.interrupt, h, Bool.true_or, if_pos rfl]

/-- While the CLI delay holds interrupts back none is taken (R320). -/
theorem State.interrupt_of_cliHeld {s : State} (h : s.cliHeld = true) : s.interrupt = none := by
  rw [State.interrupt, h, Bool.or_true, if_pos rfl]

/-- A running CPU of a part with CliDelay = 1 is held in the CLI window (R320, R327). -/
theorem State.cliHeld_of_window {s : State} (hp : s.power = .running) (hd : s.plat.cliDelay = true)
    (hw : s.cliWindow = true) : s.cliHeld = true := by
  rw [State.cliHeld, hp, hd, hw]
  rfl

/-- The inputs of a boundary do not end the CLI delay. -/
@[simp] theorem State.arrive_cliHeld (s : State) : s.arrive.cliHeld = s.cliHeld := by
  rw [State.cliHeld, State.arrive_power, State.arrive_plat, State.arrive_cliWindow]
  rfl

/-- Settles O45: each writes its flag alone; SEI's flag is the mask of the boundary's interrupts. -/
theorem flagInstructions : Obligations.FlagInstructions :=
  ⟨rfl, rfl, rfl, rfl, rfl, rfl, fun _ => ⟨rfl, rfl, rfl, fun _ => State.interrupt_of_i⟩⟩

/-- Settles O46: CLI leaves the window as I was, and the boundary changes neither the window nor the part. -/
theorem clearInterruptMask : Obligations.ClearInterruptMask := by
  intro s
  exact ⟨rfl, fun hi hp hd => ⟨_, rfl,
    State.interrupt_of_cliHeld ((State.arrive_cliHeld _).trans (State.cliHeld_of_window hp hd hi))⟩⟩

end Sys2Proof.Machine
end

section
/-! The shifts and rotates family, part 1: LSL, LSR, ASR, ROL and ROR as arithmetic on numbers (R221 to R225, R227). LSL
is ROL with a 0 coming in; LSR is ROR with a 0, and ASR is ROR with bit 7. -/

namespace Sys2Proof.Machine

/-! The results as numbers -/

/-- ROL doubles and takes in C (R224). -/
theorem toNat_rolResult (v : Byte) (c : Bool) : (rolResult v c).toNat = 2 * (v.toNat % 128) + c.toNat := by
  have hshift : (v <<< 1).toNat = 2 ^ 1 * (v.toNat % 128) := by
    rw [BitVec.toNat_shiftLeft, Nat.shiftLeft_eq]
    omega
  have hc : c.toNat < 2 ^ 1 := Bool.toNat_lt c
  rw [rolResult, BitVec.toNat_or, hshift, toNat_carryByte, ← Nat.two_pow_add_eq_or_of_lt hc]

/-- ROR halves and takes C in at bit 7 (R225). -/
theorem toNat_rorResult (v : Byte) (c : Bool) : (rorResult v c).toNat = v.toNat / 2 + 128 * c.toNat := by
  have hhalf : v.toNat / 2 < 2 ^ 7 := by omega
  have hshift : (carryByte c <<< 7).toNat = 2 ^ 7 * c.toNat := by cases c <;> rfl
  rw [rorResult, BitVec.toNat_or, BitVec.toNat_ushiftRight, Nat.shiftRight_eq_div_pow, hshift, Nat.or_comm, pow_one,
    ← Nat.two_pow_add_eq_or_of_lt hhalf, add_comm]

/-- ROL's result (R224). -/
theorem rolResult_eq (v : Byte) (c : Bool) : BitVec.ofNat 8 (2 * v.toNat + c.toNat) = rolResult v c := by
  apply BitVec.eq_of_toNat_eq
  have := Bool.toNat_lt c
  rw [BitVec.toNat_ofNat, toNat_rolResult]
  omega

/-- ROR's result (R225). -/
theorem rorResult_eq (v : Byte) (c : Bool) : BitVec.ofNat 8 (v.toNat / 2 + 128 * c.toNat) = rorResult v c := by
  apply BitVec.eq_of_toNat_eq
  have := Bool.toNat_lt c
  rw [BitVec.toNat_ofNat, toNat_rorResult]
  omega

/-- LSL is ROL with a 0 coming in (R222). -/
theorem lslResult_eq_rolResult (v : Byte) : lslResult v = rolResult v false := BitVec.or_zero.symm

/-- LSR is ROR with a 0 coming in (R223). -/
theorem lsrResult_eq_rorResult (v : Byte) : lsrResult v = rorResult v false := BitVec.or_zero.symm

/-- LSL doubles (R222). -/
theorem lslResult_eq (v : Byte) : BitVec.ofNat 8 (2 * v.toNat) = lslResult v := by
  rw [lslResult_eq_rolResult]
  exact rolResult_eq v false

/-- LSR halves the unsigned number (R223). -/
theorem lsrResult_eq (v : Byte) : BitVec.ofNat 8 (v.toNat / 2) = lsrResult v := by
  rw [lsrResult_eq_rorResult]
  exact rorResult_eq v false

/-- ASR halves the signed number, rounding toward minus infinity (R221). -/
theorem asrResult_eq (v : Byte) : BitVec.ofInt 8 (v.toInt / 2) = asrResult v := by
  have h : (asrResult v).toInt = v.toInt / 2 := by
    rw [asrResult, BitVec.toInt_sshiftRight, Int.shiftRight_eq_div_pow, pow_one]
    rfl
  rw [← h, BitVec.ofInt_toInt]

/-- ASR is ROR with bit 7 coming in (R221). -/
theorem asrResult_eq_rorResult (v : Byte) : asrResult v = rorResult v (decide (v.toInt < 0)) := by
  rw [← asrResult_eq, ← rorResult_eq]
  have hv := toInt_byte v
  apply BitVec.eq_of_toNat_eq
  rw [BitVec.toNat_ofInt, BitVec.toNat_ofNat]
  by_cases hneg : v.toInt < 0
  · rw [decide_eq_true hneg, Bool.toNat_true]
    split at hv <;> omega
  · rw [decide_eq_false hneg, Bool.toNat_false]
    split at hv <;> omega

/-! The flags as numbers -/

/-- Bit 0 is set in the odd numbers. -/
theorem getLsbD_zero_byte (v : Byte) : v.getLsbD 0 = decide (v.toNat % 2 = 1) := by
  rw [BitVec.getLsbD, Nat.testBit_zero]

/-- The flags of a shift, from conditions for C, N and Z; V is N xor C (R227). -/
theorem CCR.shiftFlags_eq (f : CCR) {r : Byte} {out n z : Bool} (hn : r.getLsbD 7 = n) (hz : (r == 0#8) = z) :
    f.shiftFlags r out = { f with c := out, n := n, z := z, v := out != n } := by
  subst hn hz
  have hv : (r.getLsbD 7 ^^ out) = (out != r.getLsbD 7) := Bool.xor_comm ..
  rw [← hv]
  rfl

/-- The flags of ROL by the operand and the bit that comes in (R224, R227). -/
theorem CCR.leftFlags_rolResult (f : CCR) (v : Byte) (c : Bool) : f.leftFlags v (rolResult v c) = { f with
    c := decide (128 ≤ v.toNat), n := decide (64 ≤ v.toNat % 128), z := decide (v.toNat % 128 = 0 ∧ c = false)
    v := decide (128 ≤ v.toNat) != decide (64 ≤ v.toNat % 128) } := by
  have hr := toNat_rolResult v c
  have hc := Bool.toNat_lt c
  have hc0 : c.toNat = 0 ↔ c = false := Bool.toNat_eq_zero
  rw [CCR.leftFlags, getLsbD_seven v]
  exact f.shiftFlags_eq (getLsbD_seven_eq_decide (by omega)) (beq_zero_eq_decide (by rw [← hc0]; omega))

/-- The flags of ROR by the operand and the bit that comes in (R225, R227). -/
theorem CCR.rightFlags_rorResult (f : CCR) (v : Byte) (c : Bool) : f.rightFlags v (rorResult v c) = { f with
    c := decide (v.toNat % 2 = 1), n := c, z := decide (v.toNat < 2 ∧ c = false)
    v := decide (v.toNat % 2 = 1) != c } := by
  have hr := toNat_rorResult v c
  have hc := Bool.toNat_lt c
  have hc0 : c.toNat = 0 ↔ c = false := Bool.toNat_eq_zero
  have hc1 : c = true ↔ c.toNat = 1 := Bool.toNat_eq_one.symm
  have hn : (rorResult v c).getLsbD 7 = c := by
    rw [getLsbD_seven_eq_decide (p := c = true) (by rw [hc1]; omega), Bool.decide_eq_true]
  rw [CCR.rightFlags, getLsbD_zero_byte]
  exact f.shiftFlags_eq hn (beq_zero_eq_decide (by rw [← hc0]; omega))

/-- The flags of LSL (R222, R227). -/
theorem CCR.leftFlags_lslResult (f : CCR) (v : Byte) : f.leftFlags v (lslResult v) = { f with
    c := decide (128 ≤ v.toNat), n := decide (64 ≤ v.toNat % 128), z := decide (v.toNat % 128 = 0)
    v := decide (128 ≤ v.toNat) != decide (64 ≤ v.toNat % 128) } := by
  rw [lslResult_eq_rolResult, CCR.leftFlags_rolResult]
  simp only [and_true]

/-- The flags of LSR: N is 0, so that V is C (R223, R227). -/
theorem CCR.rightFlags_lsrResult (f : CCR) (v : Byte) : f.rightFlags v (lsrResult v) = { f with
    c := decide (v.toNat % 2 = 1), n := false, z := decide (v.toNat < 2), v := decide (v.toNat % 2 = 1) } := by
  rw [lsrResult_eq_rorResult, CCR.rightFlags_rorResult]
  simp only [and_true, Bool.bne_false]

/-- The flags of ASR: N is the operand's sign (R221, R227). -/
theorem CCR.rightFlags_asrResult (f : CCR) (v : Byte) : f.rightFlags v (asrResult v) = { f with
    c := decide (v.toNat % 2 = 1), n := decide (v.toInt < 0), z := decide (v.toNat < 2)
    v := decide (v.toNat % 2 = 1) != decide (v.toInt < 0) } := by
  have hz : (v.toNat < 2 ∧ decide (v.toInt < 0) = false) ↔ v.toNat < 2 := by
    have := toInt_byte v
    rw [decide_eq_false_iff_not]
    split at this <;> omega
  rw [asrResult_eq_rorResult, CCR.rightFlags_rorResult]
  simp only [hz]

/-- Settles O47: LSL and ROL are read-modify-writes whose result and flags are those of the numbers. -/
theorem leftShifts : Obligations.LeftShifts := by
  unfold Obligations.LeftShifts
  simp only [lslResult_eq, rolResult_eq, ← CCR.leftFlags_lslResult, ← CCR.leftFlags_rolResult]
  exact ⟨singleOperand_of_modify (fun _ => rfl) (fun _ => rfl) (fun _ _ => rfl),
    singleOperand_of_modify (fun _ => rfl) (fun _ => rfl) (fun _ _ => rfl)⟩

/-- Settles O48: LSR, ASR and ROR are read-modify-writes whose result and flags are those of the numbers. -/
theorem rightShifts : Obligations.RightShifts := by
  unfold Obligations.RightShifts
  simp only [lsrResult_eq, asrResult_eq, rorResult_eq, ← CCR.rightFlags_lsrResult, ← CCR.rightFlags_asrResult,
    ← CCR.rightFlags_rorResult]
  exact ⟨singleOperand_of_modify (fun _ => rfl) (fun _ => rfl) (fun _ _ => rfl),
    singleOperand_of_modify (fun _ => rfl) (fun _ => rfl) (fun _ _ => rfl),
    singleOperand_of_modify (fun _ => rfl) (fun _ => rfl) (fun _ _ => rfl)⟩

end Sys2Proof.Machine
end

section
/-! The shifts and rotates family, part 2: ROL and ROR turn the nine bits of the operand and C around (R224, R225). The
operand and C are a pair; ROL moves each of its nine bits up one place and ROR down one, counted modulo 9, so that nine
ROLs come round to the start. -/

namespace Sys2Proof.Machine

/-! The bits of the results -/

/-- The byte of a carry has the carry in bit 0 and nothing else. -/
theorem getLsbD_carryByte (c : Bool) (i : Nat) : (carryByte c).getLsbD i = (decide (i = 0) && c) := by
  cases c with
  | false => exact BitVec.getLsbD_zero.trans (Bool.and_false _).symm
  | true =>
    rw [Bool.and_true, show carryByte true = 1#8 from rfl, BitVec.getLsbD_one]
    simp

/-- Bit 0 of ROL's result is the bit that came in (R224). -/
theorem getLsbD_rolResult_zero (v : Byte) (c : Bool) : (rolResult v c).getLsbD 0 = c := by
  rw [rolResult, BitVec.getLsbD_or, getLsbD_carryByte]
  simp

/-- Every other bit of ROL's result is the operand's one place down (R224). -/
theorem getLsbD_rolResult_succ (v : Byte) (c : Bool) {i : Nat} (hi : i < 7) :
    (rolResult v c).getLsbD (i + 1) = v.getLsbD i := by
  rw [rolResult, BitVec.getLsbD_or, getLsbD_carryByte, BitVec.getLsbD_shiftLeft]
  have hlt : i + 1 < 8 := by omega
  simp [hlt]

/-- Bit 7 of ROR's result is the bit that came in (R225). -/
theorem getLsbD_rorResult_seven (v : Byte) (c : Bool) : (rorResult v c).getLsbD 7 = c := by
  rw [rorResult, BitVec.getLsbD_or, BitVec.getLsbD_shiftLeft, getLsbD_carryByte]
  simp

/-- Every other bit of ROR's result is the operand's one place up (R225). -/
theorem getLsbD_rorResult_of_lt (v : Byte) (c : Bool) {i : Nat} (hi : i < 7) :
    (rorResult v c).getLsbD i = v.getLsbD (i + 1) := by
  rw [rorResult, BitVec.getLsbD_or, BitVec.getLsbD_shiftLeft]
  simp [hi, Nat.add_comm]

/-! Nine bits in a ring -/

/-- The operand and C after a ROL of the operand and C (R224). -/
def rolPair (p : Byte × Bool) : Byte × Bool := (rolResult p.1 p.2, p.1.getLsbD 7)

/-- The operand and C after a ROR of the operand and C (R225). -/
def rorPair (p : Byte × Bool) : Byte × Bool := (rorResult p.1 p.2, p.1.getLsbD 0)

/-- The nine bits: the operand's, then C. -/
def ringBit (p : Byte × Bool) (i : Fin 9) : Bool := if i.val < 8 then p.1.getLsbD i else p.2

theorem ringBit_of_lt (p : Byte × Bool) {i : Fin 9} (h : i.val < 8) : ringBit p i = p.1.getLsbD i := if_pos h

/-- Two pairs with the same nine bits are the same. -/
theorem pair_eq_of_ringBit {p q : Byte × Bool} (h : ∀ i, ringBit p i = ringBit q i) : p = q := by
  refine Prod.ext (BitVec.eq_of_getLsbD_eq fun i hi => ?_) (h 8)
  have hbit := h ⟨i, by omega⟩
  rwa [ringBit_of_lt p hi, ringBit_of_lt q hi] at hbit

/-- The places of the ring: seven below bit 7, bit 7, and C. -/
theorem ring_place_cases (i : Fin 9) : (i.val < 7 ∧ (i + 1).val = i.val + 1) ∨ i = 7 ∨ i = 8 := by
  omega

/-- ROL moves each bit up one place, and C to bit 0 (R224). -/
theorem ringBit_rolPair (p : Byte × Bool) (i : Fin 9) : ringBit (rolPair p) (i + 1) = ringBit p i := by
  obtain ⟨hi, hnext⟩ | rfl | rfl := ring_place_cases i
  · rw [ringBit_of_lt _ (by omega), ringBit_of_lt _ (by omega), hnext]
    exact getLsbD_rolResult_succ p.1 p.2 hi
  · rfl
  · exact getLsbD_rolResult_zero p.1 p.2

/-- ROR moves each bit down one place, and bit 0 to C (R225). -/
theorem ringBit_rorPair (p : Byte × Bool) (i : Fin 9) : ringBit (rorPair p) i = ringBit p (i + 1) := by
  obtain ⟨hi, hnext⟩ | rfl | rfl := ring_place_cases i
  · rw [ringBit_of_lt _ (by omega), ringBit_of_lt _ (by omega), hnext]
    exact getLsbD_rorResult_of_lt p.1 p.2 hi
  · exact getLsbD_rorResult_seven p.1 p.2
  · rfl

/-- ROR undoes ROL (R225). -/
theorem rorPair_rolPair (p : Byte × Bool) : rorPair (rolPair p) = p :=
  pair_eq_of_ringBit fun i => (ringBit_rorPair _ i).trans (ringBit_rolPair p i)

/-- After k ROLs each bit is k places up. -/
theorem ringBit_rolPair_iterate (k : Nat) (p : Byte × Bool) (i : Fin 9) :
    ringBit (rolPair^[k] p) (i + k • 1) = ringBit p i := by
  induction k with
  | zero => rw [zero_nsmul, add_zero, Function.iterate_zero, id]
  | succ k ih => rw [Function.iterate_succ_apply', succ_nsmul, ← add_assoc, ringBit_rolPair, ih]

/-- Nine ROLs restore the operand and C (R224). -/
theorem rolPair_iterate_nine (p : Byte × Bool) : rolPair^[9] p = p := by
  have hround : 9 • (1 : Fin 9) = 0 := rfl
  refine pair_eq_of_ringBit fun i => ?_
  have hbit := ringBit_rolPair_iterate 9 p i
  rwa [hround, add_zero] at hbit

/-! Runs of rotates -/

/-- A run of ROLs, seen through any relation between states and pairs along which each ROL turns the pair, restores the
pair after nine. -/
theorem nine_rols_restore {run : Result → Result} {holds : State → Byte × Bool → Prop}
    (hrol : ∀ t p, holds t p → ∃ u, run (.next t) = .next u ∧ holds u (rolPair p))
    {s : State} {p : Byte × Bool} (h : holds s p) : ∃ t, run^[9] (.next s) = .next t ∧ holds t p := by
  have hruns (k : Nat) : ∃ t, run^[k] (.next s) = .next t ∧ holds t (rolPair^[k] p) := by
    induction k with
    | zero => exact ⟨s, rfl, h⟩
    | succ k ih =>
      obtain ⟨t, hrun, ht⟩ := ih
      rw [Function.iterate_succ_apply', hrun, Function.iterate_succ_apply']
      exact hrol t _ ht
  have hnine := hruns 9
  rwa [rolPair_iterate_nine] at hnine

/-- A ROL and a ROR after it, seen through any relation between states and pairs along which they turn the pair up and
down, restore the pair. -/
theorem ror_after_rol_restores {rol ror : Instr} {holds : State → Byte × Bool → Prop}
    (hrol : ∀ t p, holds t p → ∃ u, exec rol t = .next u ∧ holds u (rolPair p))
    (hror : ∀ t p, holds t p → ∃ u, exec ror t = .next u ∧ holds u (rorPair p))
    {s : State} {p : Byte × Bool} (h : holds s p) :
    ∃ t u, exec rol s = .next t ∧ exec ror t = .next u ∧ holds u p := by
  obtain ⟨t, ht, hup⟩ := hrol s p h
  obtain ⟨u, hu, hdown⟩ := hror t _ hup
  rw [rorPair_rolPair] at hdown
  exact ⟨t, u, ht, hu, hdown⟩

/-- A and C. -/
def State.pairA (s : State) : Byte × Bool := (s.a, s.ccr.c)

/-- X and C. -/
def State.pairX (s : State) : Byte × Bool := (s.x, s.ccr.c)

/-- A state in which the operand m, a byte of RAM, and C are the pair, and m's address and the other bytes of memory
are as in s. -/
structure State.RamPair (s : State) (m : MemOperand) (t : State) (p : Byte × Bool) : Prop where
  wf : t.mem.wf = true
  ea : t.ea m = s.ea m
  ram : t.ramAt (s.ea m) = true
  byte : t.mem.read (s.ea m).toNat = p.1
  carry : t.ccr.c = p.2
  others : ∀ n, n ≠ (s.ea m).toNat → t.mem.read n = s.mem.read n

/-- At the start the pair is the byte of RAM and C. -/
theorem State.ramPair_self {s : State} {m : MemOperand} (hm : s.mem.wf = true) (ha : s.ramAt (s.ea m) = true) :
    s.RamPair m s (s.mem.read (s.ea m).toNat, s.ccr.c) := ⟨hm, rfl, ha, rfl, rfl, fun _ _ => rfl⟩

/-- Where the pair is the one of s, every byte of memory reads as in s. -/
theorem State.RamPair.read_eq {s t : State} {m : MemOperand} {c : Bool}
    (h : s.RamPair m t (s.mem.read (s.ea m).toNat, c)) (n : Nat) : t.mem.read n = s.mem.read n := by
  by_cases hn : n = (s.ea m).toNat
  · rw [hn]
    exact h.byte
  · exact h.others n hn

/-- A read-modify-write keeps H, X and SP, and with them its effective address. -/
theorem State.modify_ea (s : State) (m : MemOperand) (result : Byte → Byte) (flags : CCR → Byte → CCR) :
    (s.modify m result flags).ea m = s.ea m := by
  cases m <;> simp [State.ea, State.modify, State.hx]

@[simp] theorem State.modify_ccr (s : State) (m : MemOperand) (result : Byte → Byte) (flags : CCR → Byte → CCR) :
    (s.modify m result flags).ccr = flags s.ccr (s.read 0 (s.ea m)) := rfl

/-- A read-modify-write of the operand makes of the pair the result and the new C (R62). -/
theorem State.RamPair.modify {s t : State} {m : MemOperand} {p : Byte × Bool} (h : s.RamPair m t p)
    (result : Byte → Byte) (flags : CCR → Byte → CCR) :
    s.RamPair m (t.modify m result flags) (result p.1, (flags t.ccr p.1).c) := by
  obtain ⟨hwf, hea, hram, hbyte, -, hothers⟩ := h
  have hread : t.read 0 (t.ea m) = p.1 := by rw [hea, State.read_of_ramAt hram, hbyte]
  obtain ⟨-, -, -, -, hother, hat⟩ := t.modify_stores m result flags hwf
  have hresult := hat _ List.mem_cons_self
  refine ⟨t.wf_write _ _ hwf, (t.modify_ea m result flags).trans hea, ?_, ?_, ?_, fun n hn => ?_⟩
  · exact (congrFun (t.ramAt_write _ _) _).trans hram
  · rwa [hread, hea, if_pos hram] at hresult
  · rw [State.modify_ccr, hread]
  · rw [hother n (List.forall_mem_singleton.2 (hea ▸ hn)), hothers n hn]

/-- ROL of the operand turns its pair up (R224). -/
theorem State.RamPair.rol {s t : State} {m : MemOperand} {p : Byte × Bool} (h : s.RamPair m t p) :
    ∃ u, exec (.rol m) t = .next u ∧ s.RamPair m u (rolPair p) := by
  have hpair : rolPair p = (rolResult p.1 t.ccr.c, p.1.getLsbD 7) := by rw [h.carry, rolPair]
  rw [hpair]
  exact ⟨_, rfl, h.modify (rolResult · t.ccr.c) fun f v => f.leftFlags v (rolResult v f.c)⟩

/-- ROR of the operand turns its pair down (R225). -/
theorem State.RamPair.ror {s t : State} {m : MemOperand} {p : Byte × Bool} (h : s.RamPair m t p) :
    ∃ u, exec (.ror m) t = .next u ∧ s.RamPair m u (rorPair p) := by
  have hpair : rorPair p = (rorResult p.1 t.ccr.c, p.1.getLsbD 0) := by rw [h.carry, rorPair]
  rw [hpair]
  exact ⟨_, rfl, h.modify (rorResult · t.ccr.c) fun f v => f.rightFlags v (rorResult v f.c)⟩

/-- ROLA turns the pair of A up (R224). -/
theorem exec_rola_pairA {p : Byte × Bool} (s : State) (h : s.pairA = p) :
    ∃ t, exec .rola s = .next t ∧ t.pairA = rolPair p := ⟨_, rfl, congrArg rolPair h⟩

/-- ROLX turns the pair of X up (R224). -/
theorem exec_rolx_pairX {p : Byte × Bool} (s : State) (h : s.pairX = p) :
    ∃ t, exec .rolx s = .next t ∧ t.pairX = rolPair p := ⟨_, rfl, congrArg rolPair h⟩

/-- RORA turns the pair of A down (R225). -/
theorem exec_rora_pairA {p : Byte × Bool} (s : State) (h : s.pairA = p) :
    ∃ t, exec .rora s = .next t ∧ t.pairA = rorPair p := ⟨_, rfl, congrArg rorPair h⟩

/-- RORX turns the pair of X down (R225). -/
theorem exec_rorx_pairX {p : Byte × Bool} (s : State) (h : s.pairX = p) :
    ∃ t, exec .rorx s = .next t ∧ t.pairX = rorPair p := ⟨_, rfl, congrArg rorPair h⟩

/-- Settles O49: nine ROLs come round, and ROR undoes ROL, on the pair of the operand and C, for A, for X and for a byte
of RAM. -/
theorem rotatesInvert : Obligations.RotatesInvert := by
  intro s again
  refine ⟨?nineA, ?nineX, ?undoA, ?undoX, fun m hm ha => ⟨?nineRam, ?undoRam⟩⟩
  case nineA =>
    obtain ⟨t, hrun, ht⟩ := nine_rols_restore (run := again .rola) (holds := fun t p => t.pairA = p)
      (fun t _ => exec_rola_pairA t) (s := s) rfl
    exact ⟨t, hrun, Prod.mk.inj ht⟩
  case nineX =>
    obtain ⟨t, hrun, ht⟩ := nine_rols_restore (run := again .rolx) (holds := fun t p => t.pairX = p)
      (fun t _ => exec_rolx_pairX t) (s := s) rfl
    exact ⟨t, hrun, Prod.mk.inj ht⟩
  case undoA =>
    obtain ⟨t, u, ht, hu, hpair⟩ := ror_after_rol_restores (holds := fun t p => t.pairA = p)
      (fun t _ => exec_rola_pairA t) (fun t _ => exec_rora_pairA t) (s := s) rfl
    exact ⟨t, u, ht, hu, Prod.mk.inj hpair⟩
  case undoX =>
    obtain ⟨t, u, ht, hu, hpair⟩ := ror_after_rol_restores (holds := fun t p => t.pairX = p)
      (fun t _ => exec_rolx_pairX t) (fun t _ => exec_rorx_pairX t) (s := s) rfl
    exact ⟨t, u, ht, hu, Prod.mk.inj hpair⟩
  case nineRam =>
    obtain ⟨t, hrun, ht⟩ := nine_rols_restore (run := again (.rol m)) (fun _ _ h => h.rol)
      (State.ramPair_self hm ha)
    exact ⟨t, hrun, ht.carry, ht.read_eq⟩
  case undoRam =>
    obtain ⟨t, u, ht, hu, hpair⟩ := ror_after_rol_restores (fun _ _ h => State.RamPair.rol h)
      (fun _ _ h => State.RamPair.ror h) (State.ramPair_self hm ha)
    exact ⟨t, u, ht, hu, hpair.carry, hpair.read_eq⟩

end Sys2Proof.Machine
end

section
/-! The program control family: a call and its return (R268 to R270), SWI and RTI (R271, R272), and an interrupt entry
followed by RTI (R321, R322, R324). A return reads back the bytes that the call or the entry pushed. -/

namespace Sys2Proof.Machine

/-! Calls -/

/-- RTS brings back the whole CPU from a state in which SP is two lower and the bus reads as after the push of the
return address, wherever PC went (R268 to R270). -/
theorem exec_rts_restores {s t : State} {target : Word} (hm : s.mem.wf = true) (h0 : s.ramAt s.sp = true)
    (h1 : s.ramAt (s.sp - 1) = true) (hcpu : t.cpu = { s.cpu with sp := s.sp - 2, pc := target })
    (hread : ∀ k a, t.read k a = s.pushPC.read k a) : ∃ u, exec .rts t = .next u ∧ u.cpu = s.cpu := by
  have hsp : t.sp = s.sp - 2 := congrArg Cpu.sp hcpu
  have hhigh : t.sp + 1 = s.sp - 1 := by bv_omega
  have hlow : t.sp + 2 = s.sp := by bv_omega
  obtain ⟨-, hpch⟩ := State.read_pushPC hm h0 h1 0
  obtain ⟨hpcl, -⟩ := State.read_pushPC hm h0 h1 1
  refine ⟨_, exec_rts t, ?_⟩
  rw [hhigh, hlow, hread, hread, hpch, hpcl, join_hiByte_loByte]
  exact congrArg (fun c : Cpu => { c with pc := s.pc, sp := s.sp }) hcpu

/-- RTS right after a call, with PC at `target`, restores the whole CPU (R268 to R270). -/
theorem exec_rts_call {s : State} (hm : s.mem.wf = true) (h0 : s.ramAt s.sp = true)
    (h1 : s.ramAt (s.sp - 1) = true) (target : Word) :
    ∃ u, exec .rts { s.pushPC with pc := target } = .next u ∧ u.cpu = s.cpu := by
  obtain ⟨-, hcpu⟩ := State.call_stores hm target
  exact exec_rts_restores hm h0 h1 hcpu fun k a => State.read_congr rfl rfl a rfl k

/-- Settles O54: JSR and BSR differ in the target alone, which RTS overwrites. -/
theorem callReturns : Obligations.CallReturns := by
  intro s i hcall hm h0 h1
  obtain ⟨m, rfl⟩ | ⟨rr, rfl⟩ := hcall
  · obtain ⟨u, hu, hcpu⟩ := exec_rts_call hm h0 h1 (s.ea m)
    exact ⟨_, u, rfl, hu, hcpu⟩
  · obtain ⟨u, hu, hcpu⟩ := exec_rts_call hm h0 h1 (s.branchTarget rr)
    exact ⟨_, u, exec_bsr rr s, hu, hcpu⟩

/-! SWI and RTI -/

/-- Settles O55: SWI is the entry through its vector, and RTI the five pulls, the CCR byte by its number. -/
theorem softwareInterruptAndReturn : Obligations.SoftwareInterruptAndReturn := by
  intro s
  refine ⟨rfl, ?_⟩
  simp only [← CCR.ofByte_eq, ← join_eq]
  rfl

/-! The interrupt frame -/

/-- What an interrupt entry pushes, and where (R322). -/
def State.entryFrame (s : State) : List (Word × Byte) :=
  [(s.sp, loByte s.pc), (s.sp - 1, hiByte s.pc), (s.sp - 2, s.x), (s.sp - 3, s.a), (s.sp - 4, s.ccr.toByte)]

/-- The entry's memory is what the bus writes of its frame leave. -/
theorem State.stack_mem (s : State) : s.stack.mem = (s.writes s.entryFrame).mem := by
  rw [State.stack_eq]
  rfl

/-- The frame lies at SP and the four addresses below. -/
theorem State.entryFrame_addresses (s : State) :
    s.entryFrame.map (·.1) = (List.range 5).map fun k => s.sp - BitVec.ofNat 16 k := by
  simp [State.entryFrame, List.range_succ]

/-- No two bytes of the frame share an address. -/
theorem State.nodup_entryFrame (s : State) : (s.entryFrame.map (·.1)).Nodup := by
  rw [State.entryFrame_addresses]
  refine List.Nodup.map_on (fun j hj k hk heq => ?_) List.nodup_range
  rw [List.mem_range] at hj hk
  bv_omega

/-- Every byte of the frame lies fewer than five below SP. -/
theorem State.exists_of_mem_entryFrame {s : State} {c : Word × Byte} (hc : c ∈ s.entryFrame) :
    ∃ k : Nat, k < 5 ∧ c.1 = s.sp - BitVec.ofNat 16 k := by
  have haddr := List.mem_map_of_mem (f := (·.1)) hc
  rw [State.entryFrame_addresses, List.mem_map] at haddr
  obtain ⟨k, hk, heq⟩ := haddr
  exact ⟨k, List.mem_range.1 hk, heq.symm⟩

/-- An entry leaves every byte of memory but the five at SP and below. -/
theorem State.read_mem_stack_outside {s : State} {a : Word}
    (ha : ∀ k : Nat, k < 5 → a ≠ s.sp - BitVec.ofNat 16 k) : s.stack.mem.read a.toNat = s.mem.read a.toNat := by
  rw [State.stack_mem]
  refine s.read_writes_ne _ fun c hc heq => ?_
  obtain ⟨k, hk, hck⟩ := State.exists_of_mem_entryFrame hc
  exact ha k hk ((BitVec.eq_of_toNat_eq heq).trans hck)

/-! A return right after an entry -/

/-- `t` is as an interrupt entry from `s` leaves it, in what RTI reads and what it keeps of registers and memory. -/
structure State.Entered (s t : State) : Prop where
  mem : t.mem = s.stack.mem
  plat : t.plat = s.plat
  sp : t.sp = s.sp - 5
  h : t.h = s.h

/-- Taking an interrupt, by SWI too, is an entry (R321, R271). -/
theorem State.entered_takeInterrupt (s : State) (vector : Word) : s.Entered (s.takeInterrupt vector) :=
  ⟨s.takeInterrupt_mem vector, s.takeInterrupt_plat vector, s.takeInterrupt_sp vector, s.takeInterrupt_h vector⟩

/-- So is the entry for a hardware source (R321). -/
theorem State.entered_takeHardware (s : State) (q : SourceEntry) : s.Entered (s.takeHardware q) :=
  ⟨s.takeHardware_mem q, s.takeHardware_plat q, s.takeInterrupt_sp q.vector, s.takeInterrupt_h q.vector⟩

section
variable {s t : State}

/-- After an entry each byte of the frame reads as it was pushed, where it is RAM (R322). -/
theorem State.Entered.read_frame (he : s.Entered t) (hm : s.mem.wf = true) {a : Word} {v : Byte}
    (hc : (a, v) ∈ s.entryFrame) (ha : s.ramAt a = true) (k : Nat) : t.read k a = v := by
  have hram : t.ramAt a = true := by rwa [State.ramAt, he.plat]
  obtain ⟨-, -, -, -, hat⟩ := s.storesExactly_writes s.entryFrame hm s.nodup_entryFrame
  have hbyte := hat _ hc
  rw [if_pos ha] at hbyte
  rw [State.read_of_ramAt hram, he.mem, State.stack_mem, hbyte]

/-- RTI right after an entry brings back A, H, X, SP, PC and the CCR, and keeps what the entry left in the latches
(R272, R324). -/
theorem State.Entered.returnFromInterrupt_cpu (he : s.Entered t) (hm : s.mem.wf = true)
    (hram : ∀ k : Nat, k < 5 → s.ramAt (s.sp - BitVec.ofNat 16 k) = true) :
    t.returnFromInterrupt.cpu = { s.cpu with power := t.power, cliWindow := t.cliWindow } := by
  have hpull (k : Nat) {a b : Word} {v : Byte} (hb : b = a) (hc : (a, v) ∈ s.entryFrame) : t.read k b = v := by
    obtain ⟨j, hj, rfl⟩ := State.exists_of_mem_entryFrame hc
    exact hb ▸ he.read_frame hm hc (hram j hj) k
  have hsp := he.sp
  have hccr : t.read 0 (t.sp + 1) = s.ccr.toByte := hpull 0 (a := s.sp - 4) (by bv_omega) (by simp [State.entryFrame])
  have ha : t.read 1 (t.sp + 2) = s.a := hpull 1 (a := s.sp - 3) (by bv_omega) (by simp [State.entryFrame])
  have hx : t.read 2 (t.sp + 3) = s.x := hpull 2 (a := s.sp - 2) (by bv_omega) (by simp [State.entryFrame])
  have hpch : t.read 3 (t.sp + 4) = hiByte s.pc :=
    hpull 3 (a := s.sp - 1) (by bv_omega) (by simp [State.entryFrame])
  have hpcl : t.read 4 (t.sp + 5) = loByte s.pc := hpull 4 (a := s.sp) (by bv_omega) (by simp [State.entryFrame])
  have htop : t.sp + 5 = s.sp := by bv_omega
  rw [State.cpu, State.returnFromInterrupt, hccr, ha, hx, hpch, hpcl, CCR.ofByte_toByte, join_hiByte_loByte, htop, he.h]
  rfl

/-- RTI right after an entry: the CPU restored but for the latches, and memory outside the frame as before it. -/
theorem State.Entered.exec_rti (he : s.Entered t) (hm : s.mem.wf = true)
    (hram : ∀ k : Nat, k < 5 → s.ramAt (s.sp - BitVec.ofNat 16 k) = true) :
    ∃ u, exec .rti t = .next u ∧ u.cpu = { s.cpu with power := t.power, cliWindow := t.cliWindow } ∧
      ∀ a : Word, (∀ k : Nat, k < 5 → a ≠ s.sp - BitVec.ofNat 16 k) →
        u.mem.read a.toNat = s.mem.read a.toNat := by
  refine ⟨_, rfl, he.returnFromInterrupt_cpu hm hram, fun a ha => ?_⟩
  rw [State.returnFromInterrupt_mem, he.mem, State.read_mem_stack_outside ha]

end

/-- Settles O56: SWI keeps the latches, a hardware entry clears them, and RTI restores the rest. -/
theorem interruptTransparent : Obligations.InterruptTransparent := by
  intro s hm hram outside
  refine ⟨?_, fun q => (s.entered_takeHardware q).exec_rti hm hram⟩
  obtain ⟨u, hu, hcpu, hout⟩ := (s.entered_takeInterrupt swiVector).exec_rti hm hram
  rw [State.takeInterrupt_power, State.takeInterrupt_cliWindow] at hcpu
  exact ⟨_, u, rfl, hu, hcpu, hout⟩

end Sys2Proof.Machine
end

section
/-! The BCD and special family: DAA by the rows of its table and outside them (R290), NSA, RSP and NOP (R291 to R293),
STOP and WAIT (R294, R295), and the step of a halted CPU that nothing wakes (R327, R342). -/

namespace Sys2Proof.Machine

/-! Decimal adjust -/

/-- DAA by a row of the table that selects, its result and flags as numbers (R290). -/
theorem exec_daa_of_selects_eq {row : DaaRow} (hmem : row ∈ daaTable) {s : State}
    (hsel : row.selects s.ccr s.a = true) :
    exec .daa s = .next { s with
      a := BitVec.ofNat 8 (s.a.toNat + row.add.toNat)
      ccr := { s.ccr with
        c := row.cAfter, v := Config.daaV s.draws
        n := decide (128 ≤ (s.a.toNat + row.add.toNat) % 256)
        z := decide ((s.a.toNat + row.add.toNat) % 256 = 0) } } := by
  have hsum : (s.a + row.add).toNat = (s.a.toNat + row.add.toNat) % 256 := BitVec.toNat_add _ _
  rw [exec_daa_of_selects hmem hsel, CCR.nz8, getLsbD_seven, beq_zero_byte, hsum, BitVec.add_def]

/-- DAA writes A, C, N, Z and V and nothing else, by a row or by none (R290). -/
theorem exec_daa_frame (s : State) : ∃ a c n z v, exec .daa s = .next { s with
    a := a, ccr := { s.ccr with c := c, n := n, z := z, v := v } } := by
  change ∃ a c n z v, execDaa s = _
  rw [execDaa]
  cases daaRow s.ccr s.a with
  | some row => exact ⟨_, _, _, _, _, rfl⟩
  | none => exact ⟨_, _, _, _, _, rfl⟩

/-- Settles O57: each place of the table holds a row, the only one that selects there. -/
theorem decimalAdjustTable : Obligations.DecimalAdjustTable := by
  intro s hi lo row
  have hplace (k : Fin 9) : let r := daaTable.get k
      row r.c r.hiFrom r.hiTo r.hf r.loFrom r.loTo r.add.toNat r.cAfter := by
    intro r hc hhi hhi' hhf hlo hlo'
    have hsel : r.selects s.ccr s.a = true := (r.selects_iff _ _).2 ⟨hc, hhf, ⟨hhi, hhi'⟩, hlo, hlo'⟩
    exact ⟨_, exec_daa_of_selects_eq (List.get_mem _ _) hsel⟩
  exact ⟨hplace 0, hplace 1, hplace 2, hplace 3, hplace 4, hplace 5, hplace 6, hplace 7, hplace 8,
    exec_daa_frame s⟩

/-! The halted CPU -/

/-- Idling changes the COP counter alone (R337, R342). -/
theorem State.idle_eq (s : State) : s.idle = { s with copCounter := s.idle.copCounter } := by
  unfold State.idle
  split <;> rfl

/-- In the stopped state the COP counter stands still (log 7). -/
theorem State.idle_copCounter_of_stopped {s : State} (h : s.power = .stopped) :
    s.idle.copCounter = s.copCounter := by
  rw [State.idle, h]

/-- A halted CPU that nothing resets or wakes idles (R327, R342). -/
theorem step_of_halted {s : State} (hp : s.power ≠ .running) (hr : s.arrive.resetRequest = none)
    (hi : s.arrive.interrupt = none) : step s = .next s.arrive.idle := by
  rw [step_eq, hr, hi]
  cases hpower : s.power with
  | running => exact absurd hpower hp
  | waiting => rfl
  | stopped => rfl

/-- Settles O10: such a step is an arrival at a boundary, and idling. -/
theorem haltedStays : Obligations.HaltedStays := by
  intro s hp hr hi
  refine ⟨s.arrive.idle.copCounter, ?_, fun hstop => ?_⟩
  · rw [← State.idle_eq]
    exact step_of_halted hp hr hi
  · rw [State.idle_copCounter_of_stopped (s.arrive_power.trans hstop), State.arrive_copCounter]

/-! NSA, RSP and NOP -/

/-- A byte with its nibbles exchanged, as a number. -/
def swapNibbles (v : Byte) : Byte := BitVec.ofNat 8 (16 * (v.toNat % 16) + v.toNat / 16)

/-- The value of the exchange: no bit is lost. -/
theorem toNat_swapNibbles (v : Byte) : (swapNibbles v).toNat = 16 * (v.toNat % 16) + v.toNat / 16 := by
  rw [swapNibbles, BitVec.toNat_ofNat]
  omega

/-- The concatenation of NSA exchanges the nibbles (R10, R291). -/
theorem append_nibbles (v : Byte) : v.extractLsb' 0 4 ++ v.extractLsb' 4 4 = swapNibbles v := by
  have hhigh : (v.extractLsb' 4 4).toNat = v.toNat / 16 := by
    rw [BitVec.extractLsb'_toNat, Nat.shiftRight_eq_div_pow]
    omega
  have hlow : (v.extractLsb' 0 4).toNat = v.toNat % 16 := BitVec.extractLsb'_toNat ..
  apply BitVec.eq_of_toNat_eq
  rw [BitVec.toNat_append, hhigh, hlow, toNat_swapNibbles, Nat.shiftLeft_eq, mul_comm,
    ← Nat.two_pow_add_eq_or_of_lt (by omega)]

/-- A second exchange undoes the first. -/
theorem swapNibbles_swapNibbles (v : Byte) : swapNibbles (swapNibbles v) = v := by
  apply BitVec.eq_of_toNat_eq
  rw [toNat_swapNibbles, toNat_swapNibbles]
  omega

/-- NSA (R291). -/
theorem exec_nsa (s : State) : exec .nsa s = .next { s with a := swapNibbles s.a } := by
  rw [← append_nibbles]
  rfl

/-- NSA twice leaves the state as it was (R291). -/
theorem exec_nsa_twice (s : State) : ∃ t, exec .nsa s = .next t ∧ exec .nsa t = .next s := by
  refine ⟨_, exec_nsa s, ?_⟩
  rw [exec_nsa, swapNibbles_swapNibbles]

/-- RSP: SPH stays, SPL is $FF (R292). -/
theorem exec_rsp (s : State) :
    exec .rsp s = .next { s with sp := BitVec.ofNat 16 (256 * (s.sp.toNat / 256) + 255) } := by
  have hsp : join (hiByte s.sp) 0xFF#8 = BitVec.ofNat 16 (256 * (s.sp.toNat / 256) + 255) := by
    rw [join_eq, hiByte_toNat]
    rfl
  rw [← hsp]
  rfl

/-- Settles O59: the encodings and cycles are read off, and each instruction has its own lemma. -/
theorem smallInherents : Obligations.SmallInherents :=
  ⟨rfl, rfl, rfl, rfl, rfl, rfl, fun s => ⟨exec_nsa s, exec_nsa_twice s, exec_rsp s, rfl⟩⟩

/-! STOP and WAIT -/

/-- Settles O60: both states are the ones the meanings write out. -/
theorem stopAndWait : Obligations.StopAndWait := fun _ => ⟨rfl, rfl⟩

end Sys2Proof.Machine
end

section
/-! The exceptions family: what resets come first (R304, R307, R326, R337), when an interrupt is taken and which one
(R316, R319, R320, R342), its entry (R317, R321, R322), and what a boundary takes from the environment (R317, D13). -/

namespace Sys2Proof.Machine

/-! Interrupt conditions -/

/-- The CLI delay holds interrupts back exactly in the window of a running CPU (R320, R327). -/
theorem State.cliHeld_iff (s : State) :
    s.cliHeld = true ↔ s.power = .running ∧ s.plat.cliDelay = true ∧ s.cliWindow = true := by
  unfold State.cliHeld
  cases s.power <;> simp

/-- An interrupt is taken exactly where a request meets neither the mask nor the CLI delay (R316, R320). -/
theorem State.interrupt_eq_some_iff (s : State) (q : SourceEntry) :
    s.interrupt = some q ↔ ¬(s.ccr.i = true ∨ s.cliHeld = true) ∧ s.request = some q := by
  rw [State.interrupt, ← Bool.or_eq_true]
  split <;> simp [*]

/-- None is taken exactly under the mask, in the CLI delay, or with no request (R316, R320). -/
theorem State.interrupt_eq_none_iff (s : State) :
    s.interrupt = none ↔ (s.ccr.i = true ∨ s.cliHeld = true) ∨ s.request = none := by
  rw [State.interrupt, ← Bool.or_eq_true]
  split <;> simp [*]

/-- Where the part's priorities differ, a source that presents a request and has no higher one beside it is the
request (R319). -/
theorem State.request_of_first {s : State} {q : SourceEntry}
    (hdiffer : s.plat.sources.Pairwise fun p q => p.priority ≠ q.priority) (hq : q ∈ s.plat.sources)
    (hp : s.presents q = true) (hfirst : ∀ f ∈ s.plat.sources, s.presents f = true → q.priority ≤ f.priority) :
    s.request = some q := by
  cases hr : s.request with
  | none => exact absurd hp (s.request_none.1 hr q hq)
  | some e =>
    obtain ⟨⟨he, hep⟩, hle⟩ := State.request_some hr
    have heq : e.priority = q.priority := Nat.le_antisymm (hle q hq hp) (hfirst e he hep)
    rw [List.inj_on_of_nodup_map (List.pairwise_map.2 hdiffer) he hq heq]

/-- In the table of D1's part the priority rises with the vector address (R312). -/
theorem IntSource.table_priority_lt_iff : ∀ p ∈ IntSource.table, ∀ q ∈ IntSource.table,
    p.priority < q.priority ↔ q.vector.toNat < p.vector.toNat := by
  decide

/-- Settles O7: the mask and the CLI delay come before arbitration, which answers one of the sources that present a
request, with none of a higher priority beside it. -/
theorem interruptCondition : Obligations.InterruptCondition := by
  refine ⟨fun s => ?_, IntSource.table_priority_lt_iff⟩
  simp only [← State.cliHeld_iff, ← State.presents_iff]
  refine ⟨?_, fun q hq => ?_, fun hdiffer q hmask hfirst => ?_⟩
  · simp only [State.interrupt_eq_none_iff, State.request_none, not_and]
  · obtain ⟨hmask, hr⟩ := (s.interrupt_eq_some_iff q).1 hq
    obtain ⟨hpresented, hle⟩ := State.request_some hr
    exact ⟨hmask, hpresented, fun f hf => hle f hf.1 hf.2⟩
  · obtain ⟨⟨hq, hp⟩, hle⟩ := hfirst
    exact (s.interrupt_eq_some_iff q).2
      ⟨hmask, State.request_of_first hdiffer hq hp fun f hf hfp => hle f ⟨hf, hfp⟩⟩

/-! Interrupt entry -/

/-- The five pushes store exactly the frame (R322). -/
theorem State.storesExactly_stack {s : State} (hm : s.mem.wf = true) : s.StoresExactly s.stack s.entryFrame := by
  rw [State.stack_eq]
  exact (s.storesExactly_writes s.entryFrame hm s.nodup_entryFrame).of_eq rfl rfl rfl rfl

/-- An interrupt entry stores exactly the frame: I and PC are the CPU's (R321, R322). -/
theorem State.storesExactly_takeInterrupt {s : State} (hm : s.mem.wf = true) (vector : Word) :
    s.StoresExactly (s.takeInterrupt vector) s.entryFrame :=
  (State.storesExactly_stack hm).of_eq rfl rfl rfl rfl

/-- The vector is read after the pushes (R321). -/
theorem State.takeInterrupt_pc_eq (s : State) (vector : Word) :
    (s.takeInterrupt vector).pc =
      join ((s.takeInterrupt vector).read 0 vector) ((s.takeInterrupt vector).read 1 (vector + 1)) := by
  have hread (k : Nat) (a : Word) : (s.takeInterrupt vector).read k a = s.stack.read k a :=
    State.read_congr rfl rfl a rfl k
  rw [hread, hread]
  rfl

/-- Of the CPU an entry changes SP, I and PC alone (R321, R322). -/
theorem State.takeInterrupt_cpu (s : State) (vector : Word) :
    (s.takeInterrupt vector).cpu =
      { s.cpu with sp := s.sp - 5, ccr := { s.ccr with i := true }, pc := (s.takeInterrupt vector).pc } := by
  simp [State.cpu]

/-- Inside the handler, where the stack is RAM, the frame reads from 1,SP to 5,SP as it was pushed (R322). -/
theorem State.Entered.read_above_sp {s t : State} (he : s.Entered t) (hm : s.mem.wf = true)
    (hram : ∀ c ∈ s.entryFrame, s.ramAt c.1 = true) (k : Nat) :
    t.read k (t.sp + 1) = s.ccr.toByte ∧ t.read k (t.sp + 2) = s.a ∧ t.read k (t.sp + 3) = s.x ∧
      t.read k (t.sp + 4) = hiByte s.pc ∧ t.read k (t.sp + 5) = loByte s.pc := by
  have hframe {a b : Word} {v : Byte} (hb : b = a) (hc : (a, v) ∈ s.entryFrame) : t.read k b = v :=
    hb ▸ he.read_frame hm hc (hram _ hc) k
  have hsp := he.sp
  exact ⟨hframe (a := s.sp - 4) (by bv_omega) (by simp [State.entryFrame]),
    hframe (a := s.sp - 3) (by bv_omega) (by simp [State.entryFrame]),
    hframe (a := s.sp - 2) (by bv_omega) (by simp [State.entryFrame]),
    hframe (a := s.sp - 1) (by bv_omega) (by simp [State.entryFrame]),
    hframe (a := s.sp) (by bv_omega) (by simp [State.entryFrame])⟩

/-- Settles O9: the frame is the five pushes, and the rest of the entry is the CPU's. -/
theorem interruptEntry : Obligations.InterruptEntry := by
  intro s vector hm
  simp only [← loByte_eq, ← hiByte_eq, ← join_eq]
  rw [← State.takeInterrupt_pc_eq]
  exact ⟨State.storesExactly_takeInterrupt hm vector, s.takeInterrupt_cpu vector,
    fun k hram => (s.entered_takeInterrupt vector).read_above_sp hm hram k⟩

/-- The pushes of an entry leave the environment alone (R321). -/
theorem State.takeInterrupt_environment (s : State) (vector : Word) :
    (s.takeInterrupt vector).environment = s.environment :=
  (BusKeeps.refl s).stack.environment

/-- The external interrupt latch after a hardware entry: cleared by the vector fetch of IRQ1 alone (R317). -/
theorem State.takeHardware_irqLatch (s : State) (q : SourceEntry) :
    (s.takeHardware q).irqLatch = if q.source = .irq1 then false else s.irqLatch := by
  have hlatch : (s.takeHardware q).irqLatch = (s.irqLatch && q.source != .irq1) := by simp [State.takeHardware]
  rw [hlatch]
  split <;> simp [*]

/-- The latch is all that a hardware entry changes of the environment (R317, R321). -/
theorem State.takeHardware_environment (s : State) (q : SourceEntry) :
    (s.takeHardware q).environment =
      { s.environment with irqLatch := if q.source = .irq1 then false else s.irqLatch } := by
  rw [← State.takeHardware_irqLatch, ← s.takeInterrupt_environment q.vector]
  rfl

/-- With no reset, a boundary that finds an interrupt takes it (R326, R327). -/
theorem step_of_interrupt {s : State} {q : SourceEntry} (hr : s.arrive.resetRequest = none)
    (hq : s.arrive.interrupt = some q) : step s = .next (s.arrive.takeHardware q) := by
  rw [step_eq, hr, hq]

/-- Settles O8: the step is the hardware entry, and what it changes beside the entry is written out. -/
theorem interruptStep : Obligations.InterruptStep := by
  intro s q hr hq
  have hcycles : s.plat.entryCycles = s.arrive.plat.entryCycles := by rw [State.arrive_plat]
  rw [hcycles]
  exact ⟨_, step_of_interrupt hr hq, rfl, rfl, rfl, rfl, s.arrive.takeHardware_environment q⟩

/-! Reset requests -/

/-- The environment's reset is the one recorded (log 35). -/
theorem State.resetRequest_of_input {s : State} {c : ResetCause} (h : s.inputs.reset = some c) :
    s.resetRequest = some c := by
  rw [State.resetRequest, h]

/-- With no reset from the environment, the COP's where it is enabled and at its time-out (R337). -/
theorem State.resetRequest_of_no_input {s : State} (h : s.inputs.reset = none) :
    s.resetRequest =
      if s.copEnabled = true ∧ s.plat.copTimeout ≤ s.copCounter then some .cop else none := by
  rw [State.resetRequest, h]
  simp

/-- A reset comes before everything else (R326). -/
theorem step_of_resetRequest {s : State} {c : ResetCause} (h : s.arrive.resetRequest = some c) :
    step s = .next (s.arrive.doReset c) := by
  rw [step_eq, h]

/-- A fetch from an illegal address resets before any byte is looked at (R307). -/
theorem State.runInstr_of_illegalFetch {s : State} (h : s.plat.illegalFetch s.pc = true) :
    s.runInstr = .next (s.doReset .illegalAddress) := by
  rw [State.runInstr_eq, if_pos h]

/-- Settles O6: the request by the environment and by the COP, and the fetch that comes after both. -/
theorem resetCauses : Obligations.ResetCauses := by
  intro s
  refine ⟨fun c hc => step_of_resetRequest (State.resetRequest_of_input hc), fun hn hon htime => ?_,
    fun hn hcop => ?_, fun hr hi hp hill => ?_⟩
  · apply step_of_resetRequest
    rw [State.resetRequest_of_no_input hn, State.arrive_copEnabled, State.arrive_plat, State.arrive_copCounter,
      if_pos ⟨hon, htime⟩]
  · rw [State.resetRequest_of_no_input hn, State.arrive_copEnabled, State.arrive_plat, State.arrive_copCounter]
    refine if_neg fun ⟨hon, htime⟩ => ?_
    rcases hcop with hoff | hlt
    · exact Bool.false_ne_true (hoff.symm.trans hon)
    · exact Nat.not_le_of_lt hlt htime
  · rw [step_eq_runInstr hr hi hp]
    exact State.runInstr_of_illegalFetch (by simpa using hill)

/-! The external interrupt latch -/

/-- No boundary clears the latch (R317). -/
theorem State.arrive_irqLatch_of_set {s : State} (h : s.irqLatch = true) : s.arrive.irqLatch = true := by
  cases hs : s.schedule with
  | nil => simp [State.arrive_of_nil hs, h]
  | cons e rest => simp [State.arrive_of_cons hs, h]

/-- No instruction touches the latch (R317). -/
theorem irqLatch_of_exec {i : Instr} {s t : State} (h : exec i s = .next t) : t.irqLatch = s.irqLatch :=
  congrArg Environment.irqLatch (busKeeps_of_exec h).environment

/-- A step that loses a latched request is a reset, or the entry that the request asked for (R317). -/
theorem latch_lost_cases {s t : State} (h : step s = .next t) (hs : s.irqLatch = true) (ht : t.irqLatch = false) :
    (∃ c, t = s.arrive.doReset c) ∨
      ∃ q, q.source = .irq1 ∧ s.arrive.interrupt = some q ∧ t = s.arrive.takeHardware q := by
  have hset := State.arrive_irqLatch_of_set hs
  obtain hreset | ⟨-, q, hq, rfl⟩ | ⟨-, -, -, rfl⟩ | ⟨-, -, -, i, rest, -, hx⟩ := step_next_cases h
  · exact .inl hreset
  · refine .inr ⟨q, ?_, hq, rfl⟩
    by_contra hne
    rw [State.takeHardware_irqLatch, if_neg hne, hset] at ht
    cases ht
  · rw [State.idle_irqLatch, hset] at ht
    cases ht
  · rw [irqLatch_of_exec hx, State.begin_irqLatch, hset] at ht
    cases ht

/-- Settles O12: the two forms of a boundary, the parts it leaves, and the steps that lose the latch. -/
theorem latchKept : Obligations.LatchKept := by
  refine ⟨fun s hs => ?_, fun s e rest hs => ?_, fun s => ?_, fun s t => latch_lost_cases⟩
  · rw [State.arrive_of_nil hs]
    exact ⟨rfl, by simp⟩
  · rw [State.arrive_of_cons hs]
    exact ⟨rfl, by simp [or_assoc]⟩
  · simp [State.cpu, State.devices]

end Sys2Proof.Machine
end
